-- ==== Sys2Proof/Word.lean ====
section
/-! DEFINITION. Word.lean: the widths the spec gives its values (00_scope.md R8, R9: bit 0 is the
least significant bit, every value is unsigned). -/

namespace Sys2Proof

/-- An 8-bit value: a V register, a timer, a byte of memory, the immediate `kk`. -/
abbrev Byte := BitVec 8

/-- A 16-bit value: an instruction word, I, PC, an entry of the call stack. -/
abbrev Word := BitVec 16

/-- The index of a V register, 0 to 15 (10_state.md R21). -/
abbrev Reg := Fin 16

end Sys2Proof
end

