-- ==== Sys2Proof/Decode.lean ====
section
/-! DEFINITION. Decode.lean: the fields of an instruction word (30_encoding.md R92), the decoder (R94 to
R102, by group), the encoder from the same tables, and the opcode table itself as rows of a mask and a
match. -/

namespace Sys2Proof

/-! ### Fields -/

/-- `group = op[15:12]` (30_encoding.md R92). -/
def fieldGroup (op : Word) : BitVec 4 := op.extractLsb' 12 4

/-- `x = op[11:8]`. -/
def fieldX (op : Word) : Reg := (op.extractLsb' 8 4).toFin

/-- `y = op[7:4]`. -/
def fieldY (op : Word) : Reg := (op.extractLsb' 4 4).toFin

/-- `n = op[3:0]`. -/
def fieldN (op : Word) : BitVec 4 := op.extractLsb' 0 4

/-- `kk = op[7:0]`. -/
def fieldKk (op : Word) : Byte := op.extractLsb' 0 8

/-- `nnn = op[11:0]`. -/
def fieldNnn (op : Word) : BitVec 12 := op.extractLsb' 0 12

/-! ### The decoder -/

/-- Group 0: two words (30_encoding.md R95). -/
def decodeGroup0 (op : Word) : Option Instr :=
  if fieldNnn op = 0x0E0 then some .cls
  else if fieldNnn op = 0x0EE then some .ret
  else none

/-- Group 8: `op[3:0]` selects one of nine operations (30_encoding.md R99). -/
def decodeGroup8 (op : Word) : Option Instr :=
  if fieldN op = 0x0 then some (.ldReg (fieldX op) (fieldY op))
  else if fieldN op = 0x1 then some (.orReg (fieldX op) (fieldY op))
  else if fieldN op = 0x2 then some (.andReg (fieldX op) (fieldY op))
  else if fieldN op = 0x3 then some (.xorReg (fieldX op) (fieldY op))
  else if fieldN op = 0x4 then some (.addReg (fieldX op) (fieldY op))
  else if fieldN op = 0x5 then some (.sub (fieldX op) (fieldY op))
  else if fieldN op = 0x6 then some (.shr (fieldX op) (fieldY op))
  else if fieldN op = 0x7 then some (.subn (fieldX op) (fieldY op))
  else if fieldN op = 0xE then some (.shl (fieldX op) (fieldY op))
  else none

/-- Group E: `op[7:0]` is 0x9E or 0xA1 (30_encoding.md R101). -/
def decodeGroupE (op : Word) : Option Instr :=
  if fieldKk op = 0x9E then some (.skp (fieldX op))
  else if fieldKk op = 0xA1 then some (.sknp (fieldX op))
  else none

/-- Group F: `op[7:0]` is one of nine values (30_encoding.md R102). -/
def decodeGroupF (op : Word) : Option Instr :=
  if fieldKk op = 0x07 then some (.ldVxDt (fieldX op))
  else if fieldKk op = 0x0A then some (.ldVxK (fieldX op))
  else if fieldKk op = 0x15 then some (.ldDtVx (fieldX op))
  else if fieldKk op = 0x18 then some (.ldStVx (fieldX op))
  else if fieldKk op = 0x1E then some (.addI (fieldX op))
  else if fieldKk op = 0x29 then some (.ldF (fieldX op))
  else if fieldKk op = 0x33 then some (.ldB (fieldX op))
  else if fieldKk op = 0x55 then some (.stRegs (fieldX op))
  else if fieldKk op = 0x65 then some (.ldRegs (fieldX op))
  else none

/-- The decoder on one instruction word, by group (30_encoding.md R94, R106): none is an illegal word
(R104). It reads nothing but the word. -/
def decodeWord (op : Word) : Option Instr :=
  if fieldGroup op = 0x0 then decodeGroup0 op
  else if fieldGroup op = 0x1 then some (.jp (fieldNnn op))
  else if fieldGroup op = 0x2 then some (.call (fieldNnn op))
  else if fieldGroup op = 0x3 then some (.seImm (fieldX op) (fieldKk op))
  else if fieldGroup op = 0x4 then some (.sneImm (fieldX op) (fieldKk op))
  else if fieldGroup op = 0x5 then
    if fieldN op = 0x0 then some (.seReg (fieldX op) (fieldY op)) else none
  else if fieldGroup op = 0x6 then some (.ldImm (fieldX op) (fieldKk op))
  else if fieldGroup op = 0x7 then some (.addImm (fieldX op) (fieldKk op))
  else if fieldGroup op = 0x8 then decodeGroup8 op
  else if fieldGroup op = 0x9 then
    if fieldN op = 0x0 then some (.sneReg (fieldX op) (fieldY op)) else none
  else if fieldGroup op = 0xA then some (.ldI (fieldNnn op))
  else if fieldGroup op = 0xB then some (.jpV0 (fieldNnn op))
  else if fieldGroup op = 0xC then some (.rnd (fieldX op) (fieldKk op))
  else if fieldGroup op = 0xD then some (.drw (fieldX op) (fieldY op) (fieldN op).toNat)
  else if fieldGroup op = 0xE then decodeGroupE op
  else decodeGroupF op

/-- The word of two consecutive bytes, the one at the lower address being the high byte
(20_memory.md R64). -/
def wordOfBytes (hi lo : Byte) : Word := hi ++ lo

/-- Why bytes are no instruction. -/
inductive DecodeReject where
  /-- The word matches no row of the table (30_encoding.md R104). -/
  | illegal (op : Word)
  /-- Fewer than the two bytes of an instruction (30_encoding.md R90) are there. -/
  | truncated
deriving DecidableEq, Repr

/-- The decoder on bytes in ascending address order: the instruction and the bytes after it, or the
reason why there is none. Every instruction takes two bytes (30_encoding.md R90). -/
def decodeBytes : List Byte → Except DecodeReject (Instr × List Byte)
  | hi :: lo :: rest =>
    match decodeWord (wordOfBytes hi lo) with
    | some i => .ok (i, rest)
    | none => .error (.illegal (wordOfBytes hi lo))
  | [_] => .error .truncated
  | [] => .error .truncated

/-- The instruction the decoder reads from a word numbered as spec/opcode_table.json numbers it: the
word is laid out high byte first (20_memory.md R64) and given to `decodeBytes`. -/
def decodeTableWord (nbits w : Nat) : Option Instr :=
  let bits := w % 2 ^ nbits
  match decodeBytes [BitVec.ofNat 8 (bits / 256), BitVec.ofNat 8 bits] with
  | .ok (i, _) => some i
  | .error _ => none

/-! ### The encoder -/

/-- A register index as the nibble of its field. -/
def nibble (r : Reg) : BitVec 4 := BitVec.ofNat 4 r.val

/-- Format NNN (30_encoding.md R91). -/
def encodeNnn (g : BitVec 4) (nnn : BitVec 12) : Word := g ++ nnn

/-- Format XKK, and format X with its fixed low byte (30_encoding.md R91). -/
def encodeXkk (g : BitVec 4) (x : Reg) (kk : Byte) : Word := g ++ (nibble x ++ kk : BitVec 12)

/-- Format XYN, and format XY with its fixed low nibble (30_encoding.md R91). -/
def encodeXyn (g : BitVec 4) (x y : Reg) (n : BitVec 4) : Word :=
  g ++ (nibble x ++ (nibble y ++ n : BitVec 8) : BitVec 12)

/-- The word of an instruction, from the patterns of 30_encoding.md R95 to R102. -/
def encode : Instr → Word
  | .cls => 0x00E0
  | .ret => 0x00EE
  | .jp nnn => encodeNnn 0x1 nnn
  | .call nnn => encodeNnn 0x2 nnn
  | .seImm x kk => encodeXkk 0x3 x kk
  | .sneImm x kk => encodeXkk 0x4 x kk
  | .seReg x y => encodeXyn 0x5 x y 0x0
  | .ldImm x kk => encodeXkk 0x6 x kk
  | .addImm x kk => encodeXkk 0x7 x kk
  | .ldReg x y => encodeXyn 0x8 x y 0x0
  | .orReg x y => encodeXyn 0x8 x y 0x1
  | .andReg x y => encodeXyn 0x8 x y 0x2
  | .xorReg x y => encodeXyn 0x8 x y 0x3
  | .addReg x y => encodeXyn 0x8 x y 0x4
  | .sub x y => encodeXyn 0x8 x y 0x5
  | .shr x y => encodeXyn 0x8 x y 0x6
  | .subn x y => encodeXyn 0x8 x y 0x7
  | .shl x y => encodeXyn 0x8 x y 0xE
  | .sneReg x y => encodeXyn 0x9 x y 0x0
  | .ldI nnn => encodeNnn 0xA nnn
  | .jpV0 nnn => encodeNnn 0xB nnn
  | .rnd x kk => encodeXkk 0xC x kk
  | .drw x y n => encodeXyn 0xD x y (BitVec.ofNat 4 n)
  | .skp x => encodeXkk 0xE x 0x9E
  | .sknp x => encodeXkk 0xE x 0xA1
  | .ldVxDt x => encodeXkk 0xF x 0x07
  | .ldVxK x => encodeXkk 0xF x 0x0A
  | .ldDtVx x => encodeXkk 0xF x 0x15
  | .ldStVx x => encodeXkk 0xF x 0x18
  | .addI x => encodeXkk 0xF x 0x1E
  | .ldF x => encodeXkk 0xF x 0x29
  | .ldB x => encodeXkk 0xF x 0x33
  | .stRegs x => encodeXkk 0xF x 0x55
  | .ldRegs x => encodeXkk 0xF x 0x65

/-- The two bytes of an instruction in ascending address order. -/
def encodeBytes (i : Instr) : List Byte :=
  [(encode i).extractLsb' 8 8, (encode i).extractLsb' 0 8]

/-! ### The opcode table -/

/-- One row of spec/opcode_table.json: a word `op` selects it when `op &&& mask = pattern`
(30_encoding.md R94). -/
structure OpcodeRow where
  mnemonic : String
  pattern : Word
  mask : Word
deriving DecidableEq, Repr

/-- Does the word select the row? -/
def OpcodeRow.selects (row : OpcodeRow) (op : Word) : Bool := op &&& row.mask == row.pattern

/-- The row of an instruction in spec/opcode_table.json. -/
def rowOf : Instr → OpcodeRow
  | .cls => ⟨"CLS", 0x00E0, 0xFFFF⟩
  | .ret => ⟨"RET", 0x00EE, 0xFFFF⟩
  | .jp _ => ⟨"JP", 0x1000, 0xF000⟩
  | .call _ => ⟨"CALL", 0x2000, 0xF000⟩
  | .seImm _ _ => ⟨"SE_IMM", 0x3000, 0xF000⟩
  | .sneImm _ _ => ⟨"SNE_IMM", 0x4000, 0xF000⟩
  | .seReg _ _ => ⟨"SE_REG", 0x5000, 0xF00F⟩
  | .ldImm _ _ => ⟨"LD_IMM", 0x6000, 0xF000⟩
  | .addImm _ _ => ⟨"ADD_IMM", 0x7000, 0xF000⟩
  | .ldReg _ _ => ⟨"LD_REG", 0x8000, 0xF00F⟩
  | .orReg _ _ => ⟨"OR", 0x8001, 0xF00F⟩
  | .andReg _ _ => ⟨"AND", 0x8002, 0xF00F⟩
  | .xorReg _ _ => ⟨"XOR", 0x8003, 0xF00F⟩
  | .addReg _ _ => ⟨"ADD_REG", 0x8004, 0xF00F⟩
  | .sub _ _ => ⟨"SUB", 0x8005, 0xF00F⟩
  | .shr _ _ => ⟨"SHR", 0x8006, 0xF00F⟩
  | .subn _ _ => ⟨"SUBN", 0x8007, 0xF00F⟩
  | .shl _ _ => ⟨"SHL", 0x800E, 0xF00F⟩
  | .sneReg _ _ => ⟨"SNE_REG", 0x9000, 0xF00F⟩
  | .ldI _ => ⟨"LD_I", 0xA000, 0xF000⟩
  | .jpV0 _ => ⟨"JP_V0", 0xB000, 0xF000⟩
  | .rnd _ _ => ⟨"RND", 0xC000, 0xF000⟩
  | .drw _ _ _ => ⟨"DRW", 0xD000, 0xF000⟩
  | .skp _ => ⟨"SKP", 0xE09E, 0xF0FF⟩
  | .sknp _ => ⟨"SKNP", 0xE0A1, 0xF0FF⟩
  | .ldVxDt _ => ⟨"LD_VX_DT", 0xF007, 0xF0FF⟩
  | .ldVxK _ => ⟨"LD_VX_K", 0xF00A, 0xF0FF⟩
  | .ldDtVx _ => ⟨"LD_DT_VX", 0xF015, 0xF0FF⟩
  | .ldStVx _ => ⟨"LD_ST_VX", 0xF018, 0xF0FF⟩
  | .addI _ => ⟨"ADD_I", 0xF01E, 0xF0FF⟩
  | .ldF _ => ⟨"LD_F", 0xF029, 0xF0FF⟩
  | .ldB _ => ⟨"LD_B", 0xF033, 0xF0FF⟩
  | .stRegs _ => ⟨"ST_REGS", 0xF055, 0xF0FF⟩
  | .ldRegs _ => ⟨"LD_REGS", 0xF065, 0xF0FF⟩

/-- One instruction for each row, its operands zero, in the table's order. -/
def rowInstrs : List Instr :=
  [.cls, .ret, .jp 0, .call 0, .seImm 0 0, .sneImm 0 0, .seReg 0 0, .ldImm 0 0, .addImm 0 0] ++
  [.ldReg 0 0, .orReg 0 0, .andReg 0 0, .xorReg 0 0, .addReg 0 0, .sub 0 0, .shr 0 0, .subn 0 0,
    .shl 0 0] ++
  [.sneReg 0 0, .ldI 0, .jpV0 0, .rnd 0 0, .drw 0 0 0, .skp 0, .sknp 0] ++
  [.ldVxDt 0, .ldVxK 0, .ldDtVx 0, .ldStVx 0, .addI 0, .ldF 0, .ldB 0, .stRegs 0, .ldRegs 0]

/-- The opcode table, 34 rows (30_encoding.md R103). -/
def opcodeTable : List OpcodeRow := rowInstrs.map rowOf

end Sys2Proof
end

