-- ==== Sys2Proof/Config.lean ====
section
/-! DEFINITION. Config.lean: the alternatives of the parameters the spec names (00_scope.md R7) and the
one free value (42_immediate.md R156). Which alternative the machine takes is Machine/Params.lean. -/

namespace Sys2Proof.Config

/-- `OOB_POLICY` (00_scope.md R7, 92_eei_decisions.md D1): an access above 0xFFF faults, or its address
is taken modulo 4096. -/
inductive OobPolicy where
  | fault
  | wrap
deriving DecidableEq, Repr

/-- `KEY_INDEX_POLICY` (00_scope.md R7, 92_eei_decisions.md D5): a key test with `V[x] > 15` faults, or
tests the key of the low nibble. -/
inductive KeyIndexPolicy where
  | fault
  | lowNibble
deriving DecidableEq, Repr

/-- `SHIFT_SOURCE` (00_scope.md R7, 92_eei_decisions.md D8): the register that `8xy6` and `8xyE` shift. -/
inductive ShiftSource where
  | vx
  | vy
deriving DecidableEq, Repr

/-- `draw8()` (42_immediate.md R156): the byte of the n-th draw, about which nothing is known. It has no
body here, so whatever is proved holds for every sequence of draws. FREE VALUE, log entry 1. -/
opaque draw8 : Nat → Byte

end Sys2Proof.Config
end

