-- ==== Sys2Proof/Machine/Params.lean ====
section
/-! DEFINITION. Machine/Params.lean: the value this machine takes for each parameter the spec names
(00_scope.md R6, R7). The operations of Ops.lean, Operands.lean and Flags.lean take the parameter they
depend on as an argument; the meanings pass these. -/

namespace Sys2Proof.Machine.Params

/-- `OOB_POLICY = fault` (92_eei_decisions.md D1). Log entry 2. -/
def oobPolicy : Config.OobPolicy := .fault

/-- `FONT_PROTECT = true` (92_eei_decisions.md D2). Log entry 2. -/
def fontProtect : Bool := true

/-- `KEY_INDEX_POLICY = fault` (92_eei_decisions.md D5). Log entry 3. -/
def keyIndexPolicy : Config.KeyIndexPolicy := .fault

/-- `SHIFT_SOURCE = Vx` (92_eei_decisions.md D8). Log entry 3. -/
def shiftSource : Config.ShiftSource := .vx

/-- `FX1E_LIMIT = 0x00FF` (92_eei_decisions.md D20). Log entry 3. -/
def fx1eLimit : Nat := 0x00FF

/-- `MEM_SIZE` (00_scope.md R6). -/
def memSize : Nat := 4096

/-- `LOAD_ADDRESS` (00_scope.md R6). -/
def loadAddress : Nat := 0x200

/-- `FONT_SIZE` (00_scope.md R6): the font table is 0x000 to 0x04F. -/
def fontSize : Nat := 80

/-- `FB_W` (00_scope.md R6). -/
def fbWidth : Nat := 64

/-- `FB_H` (00_scope.md R6). -/
def fbHeight : Nat := 32

/-- `FONT`, the 80 bytes of 10_state.md R33, glyph by glyph (92_eei_decisions.md D11). Log entry 4. -/
def font : List Byte :=
  [0xF0, 0x90, 0x90, 0x90, 0xF0] ++ [0x20, 0x60, 0x20, 0x20, 0x70] ++
  [0xF0, 0x10, 0xF0, 0x80, 0xF0] ++ [0xF0, 0x10, 0xF0, 0x10, 0xF0] ++
  [0x90, 0x90, 0xF0, 0x10, 0x10] ++ [0xF0, 0x80, 0xF0, 0x10, 0xF0] ++
  [0xF0, 0x80, 0xF0, 0x90, 0xF0] ++ [0xF0, 0x10, 0x20, 0x40, 0x40] ++
  [0xF0, 0x90, 0xF0, 0x90, 0xF0] ++ [0xF0, 0x90, 0xF0, 0x10, 0xF0] ++
  [0xF0, 0x90, 0xF0, 0x90, 0x90] ++ [0xE0, 0x90, 0xE0, 0x90, 0xE0] ++
  [0xF0, 0x80, 0x80, 0x80, 0xF0] ++ [0xE0, 0x90, 0x90, 0x90, 0xE0] ++
  [0xF0, 0x80, 0xF0, 0x80, 0xF0] ++ [0xF0, 0x80, 0xF0, 0x80, 0x80]

end Sys2Proof.Machine.Params
end

