-- ==== Sys2Proof/Machine/State.lean ====
section
/-! DEFINITION. Machine/State.lean: the architectural state (10_state.md R20), its reset (R37), and the
reasons for which the model gives no next state. -/

namespace Sys2Proof.Machine

/-- The kind of access an `AddressError` reports (60_exceptions.md R220). -/
inductive AccessKind where
  | fetch
  | read
  | write
  | fontWrite
deriving DecidableEq, Repr

/-- What `Faulted(cause, info)` records, with the PC of the faulting instruction: the table of
60_exceptions.md R220. -/
inductive FaultRecord where
  /-- Code 1: the word `op` matches no row (R221). -/
  | decodeError (op pc : Word)
  /-- Code 2: `2nnn` with sixteen entries in use (R222). -/
  | stackOverflow (pc : Word)
  /-- Code 3: `00EE` with none (R222). -/
  | stackUnderflow (pc : Word)
  /-- Code 4: an address that MemRead or MemWrite refuses (R223); `addr` is the exact integer. -/
  | addressError (addr : Nat) (kind : AccessKind) (pc : Word)
  /-- Code 5: a key test with `V[x] > 15` (R225). -/
  | keyIndexError (k : Byte) (pc : Word)
deriving DecidableEq, Repr

/-- The run state `RUN` (10_state.md R34). -/
inductive RunState where
  | running
  | awaitingKey (r : Reg)
  | faulted (f : FaultRecord)
deriving DecidableEq, Repr

/-- `MEM` (10_state.md R29) as the list of the bytes that differ from what `unlisted` of Ops.lean gives,
addresses strictly rising (`Memory.wf` of Ops.lean). -/
abbrev Memory := List Host.Cell

/-- The framebuffer `FB[0..2047]`, one bit per pixel, row by row: bit col of entry row is
`FB[row * 64 + col]` (10_state.md R30). Log entry 5. -/
abbrev Framebuffer := Vector (BitVec 64) 32

/-- The state of the CORE (10_state.md R20), and the count of draws, which is the model's own. -/
structure State where
  /-- `V[0]` to `V[15]`; `V[15]` is VF (R21, R22). -/
  v : Vector Byte 16
  /-- `I` (R23). -/
  i : Word
  /-- `PC` (R24). -/
  pc : Word
  /-- `STK[0..15]` (R25). -/
  stk : Vector Word 16
  /-- `SP`, the number of entries in use, 0 to 16 (R26). -/
  sp : Fin 17
  /-- `DT` (R27). -/
  dt : Byte
  /-- `ST` (R28). -/
  st : Byte
  /-- `MEM` (R29). -/
  mem : Memory
  /-- `FB` (R30). -/
  fb : Framebuffer
  /-- `REDRAW` (R31). -/
  redraw : Bool
  /-- `KEY[0..15]`, true for pressed (R32). -/
  keys : Vector Bool 16
  /-- `RUN` (R34). -/
  run : RunState
  /-- The model's own: how many draws were taken, the argument of `Config.draw8`. Log entry 1. -/
  draws : Nat
deriving DecidableEq, Repr

/-- The state right after reset: the table of 10_state.md R37. Memory lists nothing, so it reads as
the font and zeros. `draws` is a DESIGN CHOICE, log entry 1. -/
def State.reset : State where
  v := Vector.replicate 16 0
  i := 0
  pc := 0x0200
  stk := Vector.replicate 16 0
  sp := 0
  dt := 0
  st := 0
  mem := []
  fb := Vector.replicate 32 0
  redraw := false
  keys := Vector.replicate 16 false
  run := .running
  draws := 0

/-- The faults that stop the MODEL. There are none: the spec describes the entry of every fault of the
CORE (60_exceptions.md R224), so each is a next state whose `run` is `faulted`. Safe. Log entry 6. -/
inductive Fault
deriving DecidableEq, Repr

/-- The refusals: calls that are given no transition. -/
inductive Refusal where
  /-- Raised by an arm of `exec` whose instruction has no meaning yet; no arm is left so. Safe. -/
  | notModelled (mnemonic : String)
  /-- Raised by the host's `load` of no bytes: LoadError EmptyProgram (70_reset_and_hazards.md R263,
  R264). Safe: the spec says that nothing changes. -/
  | loadEmptyProgram
  /-- Raised by the host's `load` of more than 3584 bytes: LoadError ProgramTooLarge (R263). Safe. -/
  | loadProgramTooLarge
  /-- Raised by the host's `load` after the first step or a second time (R265, 60_exceptions.md R244,
  93_implementation_defined.md U15). Safe. -/
  | loadOutsideBoot
  /-- Raised by the host's `set_key` with an index above 15 (60_exceptions.md R244). Safe. -/
  | setKeyIndex (index : Nat)
  /-- Raised by the host's `resolve_key` while RUN is not AwaitingKey (60_exceptions.md R244). Safe. -/
  | resolveKeyNotAwaiting
  /-- Raised by the host's `resolve_key` with a value above 15 (60_exceptions.md R244). Safe. -/
  | resolveKeyValue (value : Nat)
deriving DecidableEq, Repr

/-- What a meaning answers. -/
abbrev Result := Host.Outcome State Fault Refusal

end Sys2Proof.Machine
end

