-- ==== Sys2Proof/Machine/Ops.lean ====
section
/-! DEFINITION. Machine/Ops.lean: the named operations over registers, memory, stack and framebuffer,
and taking a fault. -/

namespace Sys2Proof.Machine

/-! ### Registers -/

/-- `V[r]` (00_scope.md R10). No register is hard-wired (10_state.md R21). -/
def State.getV (s : State) (r : Reg) : Byte := s.v.get r

/-- `V[r] <- b` (00_scope.md R10). -/
def State.setV (s : State) (r : Reg) (b : Byte) : State := { s with v := s.v.set r.val b r.isLt }

/-- The whole register file written at once. -/
def State.setRegs (s : State) (v : Vector Byte 16) : State := { s with v := v }

/-- `I <- w`. -/
def State.setI (s : State) (w : Word) : State := { s with i := w }

/-- `PC <- w`. -/
def State.setPc (s : State) (w : Word) : State := { s with pc := w }

/-- `DT <- b`. -/
def State.setDt (s : State) (b : Byte) : State := { s with dt := b }

/-- `ST <- b`. -/
def State.setSt (s : State) (b : Byte) : State := { s with st := b }

/-- `MEM <- m`. -/
def State.setMem (s : State) (m : Memory) : State := { s with mem := m }

/-- `FB <- f`. -/
def State.setFb (s : State) (f : Framebuffer) : State := { s with fb := f }

/-- `REDRAW <- b`. -/
def State.setRedraw (s : State) (b : Bool) : State := { s with redraw := b }

/-- `KEY <- k`. -/
def State.setKeys (s : State) (k : Vector Bool 16) : State := { s with keys := k }

/-- `RUN <- r`. -/
def State.setRun (s : State) (r : RunState) : State := { s with run := r }

/-- The model's count of draws. -/
def State.setDraws (s : State) (n : Nat) : State := { s with draws := n }

/-- `STK` and `SP` together. -/
def State.setStack (s : State) (stk : Vector Word 16) (sp : Fin 17) : State :=
  { s with stk := stk, sp := sp }

/-- The default `PC <- (PC + 2) mod 2^16` (40_sequencer_and_flow.md R124). -/
def State.advance (s : State) : State := s.setPc (s.pc + 2)

/-- The skip rule (41_skip.md R140): PC + 2, then a further 2 if the condition holds. -/
def State.skipIf (s : State) (cond : Bool) : State := if cond then s.advance.advance else s.advance

/-! ### Faults -/

/-- Fault entry (60_exceptions.md R224): `RUN <- Faulted(code, info)` and nothing else, a NEXT state.
There is no return from it (R229): only the host's reset leaves Faulted. -/
def raise (f : FaultRecord) (s : State) : Result := .next (s.setRun (.faulted f))

/-- The numeric code of a fault (60_exceptions.md R220). -/
def FaultRecord.code : FaultRecord → Nat
  | .decodeError _ _ => 1
  | .stackOverflow _ => 2
  | .stackUnderflow _ => 3
  | .addressError _ _ _ => 4
  | .keyIndexError _ _ => 5

/-! ### Memory -/

/-- What an address that memory does not list reads as: the reset contents (10_state.md R37), the font
at 0x000 to 0x04F and zero above. Above 0xFFF there is no memory, and no step gets there. Log entry 11. -/
def unlisted (a : Nat) : Byte := Params.font.getD a 0

/-- `MEM[a]` (00_scope.md R10): raw access, no check. -/
def Memory.byteAt : Memory → Nat → Byte
  | [], a => unlisted a
  | (b, v) :: m, a => if a = b then v else Memory.byteAt m a

/-- Put an entry before the first one of a higher address. -/
def Memory.insert : Memory → Nat → Byte → Memory
  | [], a, v => [(a, v)]
  | (b, w) :: m, a, v => if a < b then (a, v) :: (b, w) :: m else (b, w) :: Memory.insert m a v

/-- `MEM[a] <- v`: raw write. The old entry of the address goes; a new one comes unless the value is what
the address reads as when unlisted, which keeps the canonical form. -/
def Memory.store (m : Memory) (a : Nat) (v : Byte) : Memory :=
  let rest := m.filter (fun c => decide (c.1 ≠ a))
  if v = unlisted a then rest else Memory.insert rest a v

/-- The canonical form from address `lo` on: addresses strictly rising, below 4096, and no entry equal
to what its address reads as when unlisted. -/
def Memory.wfFrom : Nat → Memory → Bool
  | _, [] => true
  | lo, (a, v) :: m =>
    decide (lo ≤ a) && decide (a < Params.memSize) && decide (v ≠ unlisted a) &&
      Memory.wfFrom (a + 1) m

/-- The canonical form of memory. -/
def Memory.wf (m : Memory) : Bool := Memory.wfFrom 0 m

/-- `MEM[a]` of a state. -/
def State.byteAt (s : State) (a : Nat) : Byte := s.mem.byteAt a

/-- Is the exact integer address refused by the range check (20_memory.md R62, R63, R69)? With
`OOB_POLICY = wrap` the check is dropped. -/
def outOfRange (oob : Config.OobPolicy) (a : Nat) : Bool :=
  match oob with
  | .fault => decide (a > 0xFFF)
  | .wrap => false

/-- The cell an address that passed the check names: itself, or with `OOB_POLICY = wrap` the address
modulo 4096 (20_memory.md R62). Log entry 2 for a store under wrap. -/
def cellOf (oob : Config.OobPolicy) (a : Nat) : Nat :=
  match oob with
  | .fault => a
  | .wrap => a % Params.memSize

/-- `MemRead(a, 1)` (20_memory.md R62). -/
def memRead (oob : Config.OobPolicy) (s : State) (a : Nat) : Except FaultRecord Byte :=
  if outOfRange oob a then .error (.addressError a .read s.pc) else .ok (s.byteAt (cellOf oob a))

/-- `MemRead(a, 1), MemRead(a + 1, 1), …`, n reads in ascending order; the first that fails is reported
(60_exceptions.md R227). -/
def readRun (oob : Config.OobPolicy) (s : State) : Nat → Nat → Except FaultRecord (List Byte)
  | _, 0 => .ok []
  | a, n + 1 =>
    match memRead oob s a with
    | .error f => .error f
    | .ok b =>
      match readRun oob s (a + 1) n with
      | .error f => .error f
      | .ok bs => .ok (b :: bs)

/-- The check of `MemWrite(a, 1, v)` (20_memory.md R63): the range first, then the font. -/
def writeFault (oob : Config.OobPolicy) (protect : Bool) (pc : Word) (a : Nat) :
    Option FaultRecord :=
  if outOfRange oob a then some (.addressError a .write pc)
  else if protect && decide (cellOf oob a ≤ 0x04F) then some (.addressError a .fontWrite pc)
  else none

/-- The check of n writes from `a` on, in ascending order: the first that fails (60_exceptions.md
R227). -/
def writeRunFault (oob : Config.OobPolicy) (protect : Bool) (pc : Word) :
    Nat → Nat → Option FaultRecord
  | _, 0 => none
  | a, n + 1 =>
    match writeFault oob protect pc a with
    | some f => some f
    | none => writeRunFault oob protect pc (a + 1) n

/-- The writes themselves, in ascending order, after every check passed (20_memory.md R65). -/
def Memory.storeRun (oob : Config.OobPolicy) : Memory → Nat → List Byte → Memory
  | m, _, [] => m
  | m, a, b :: bs => Memory.storeRun oob (m.store (cellOf oob a) b) (a + 1) bs

/-- Several `MemWrite`s: all addresses are checked before any byte is written (20_memory.md R63,
60_exceptions.md R228). -/
def storeBytes (oob : Config.OobPolicy) (protect : Bool) (a : Nat) (bs : List Byte) (s : State) :
    Except FaultRecord State :=
  match writeRunFault oob protect s.pc a bs.length with
  | some f => .error f
  | none => .ok (s.setMem (s.mem.storeRun oob a bs))

/-! ### Call stack -/

/-- The push of `2nnn` (40_sequencer_and_flow.md R127): `STK[SP] <- w; SP <- SP + 1`; none when sixteen
entries are in use. -/
def State.push (s : State) (w : Word) : Option State :=
  if h : s.sp.val < 16 then some (s.setStack (s.stk.set s.sp.val w h) ⟨s.sp.val + 1, by omega⟩)
  else none

/-- The pop of `00EE` (40_sequencer_and_flow.md R128): the entry `STK[SP - 1]` and the state with
`SP <- SP - 1`, the slot kept; none when no entry is in use. -/
def State.pop (s : State) : Option (Word × State) :=
  if h : 0 < s.sp.val then
    some (s.stk[s.sp.val - 1]'(by omega), s.setStack s.stk ⟨s.sp.val - 1, by omega⟩)
  else none

/-! ### Register file transfers -/

/-- `V[0]` to `V[x]`, x + 1 bytes (48_index_memory.md R213). -/
def State.regsUpTo (s : State) (x : Reg) : List Byte := s.v.toList.take (x.val + 1)

/-- Write the bytes to `V[j]`, `V[j+1]`, … (48_index_memory.md R214). -/
def writeRegsFrom : Vector Byte 16 → Nat → List Byte → Vector Byte 16
  | v, _, [] => v
  | v, j, b :: bs => writeRegsFrom (v.setIfInBounds j b) (j + 1) bs

/-! ### Framebuffer -/

/-- The row of the framebuffer that pixel k lies in. -/
def Framebuffer.rowOf (f : Framebuffer) (k : Nat) : BitVec 64 := f[k / Params.fbWidth]?.getD 0

/-- `FB[k]` (00_scope.md R10). -/
def Framebuffer.pixel (f : Framebuffer) (k : Nat) : Bool :=
  (f.rowOf k).getLsbD (k % Params.fbWidth)

/-- `FB[k] <- FB[k] ^ 1`. -/
def Framebuffer.flip (f : Framebuffer) (k : Nat) : Framebuffer :=
  f.setIfInBounds (k / Params.fbWidth) (f.rowOf k ^^^ BitVec.twoPow 64 (k % Params.fbWidth))

/-- The framebuffer with every pixel 0. -/
def Framebuffer.clear : Framebuffer := Vector.replicate 32 0

/-- The index of the pixel at a row and a column (10_state.md R30). -/
def pixelIndex (row col : Nat) : Nat := row * Params.fbWidth + col

/-- The framebuffer and the collision so far, while a sprite is drawn. -/
structure Drawing where
  fb : Framebuffer
  collision : Bool
deriving DecidableEq, Repr

/-- One pixel of a sprite byte `b` (45_display.md R181): where bit 7 - c is 1, the pixel at the wrapped
column is flipped, and it collides if it was 1. -/
def drawPixel (row vx : Nat) (b : Byte) (d : Drawing) (c : Nat) : Drawing :=
  let k := pixelIndex row ((vx + c) % Params.fbWidth)
  if b.getLsbD (7 - c) then ⟨d.fb.flip k, d.collision || d.fb.pixel k⟩ else d

/-- One row of a sprite, columns 0 to 7 (45_display.md R181). -/
def drawRow (row vx : Nat) (b : Byte) (d : Drawing) : Drawing :=
  [0, 1, 2, 3, 4, 5, 6, 7].foldl (drawPixel row vx b) d

/-- The rows of a sprite from row r on, the row wrapped (45_display.md R181, R182). -/
def drawRows (vx vy : Nat) : Nat → List Byte → Drawing → Drawing
  | _, [], d => d
  | r, b :: bs, d => drawRows vx vy (r + 1) bs (drawRow ((vy + r) % Params.fbHeight) vx b d)

end Sys2Proof.Machine
end

