-- ==== Sys2Proof/Machine/Cycle.lean ====
section
/-! DEFINITION. Machine/Cycle.lean: the cycle driver (40_sequencer_and_flow.md R120 to R122) over any
executor, and where an instruction's bytes lie. Step.lean calls it with `exec`. -/

namespace Sys2Proof.Machine

/-- Fetch, `MemRead(PC, 2)` (40_sequencer_and_flow.md R121, 20_memory.md R62, R64): the byte at PC is the
high byte. -/
def fetchWord (oob : Config.OobPolicy) (s : State) : Except FaultRecord Word :=
  if outOfRange oob (s.pc.toNat + 1) then .error (.addressError s.pc.toNat .fetch s.pc)
  else .ok (wordOfBytes (s.byteAt (cellOf oob s.pc.toNat)) (s.byteAt (cellOf oob (s.pc.toNat + 1))))

/-- Fetch, then decode (40_sequencer_and_flow.md R121, R122): the instruction at PC, or the fault. -/
def fetchInstr (oob : Config.OobPolicy) (s : State) : Except FaultRecord Instr :=
  match fetchWord oob s with
  | .error f => .error f
  | .ok op =>
    match decodeWord op with
    | none => .error (.decodeError op s.pc)
    | some i => .ok i

/-- One cycle (40_sequencer_and_flow.md R120): one instruction when Running, nothing otherwise. -/
def cycle (execute : Instr → State → Result) (s : State) : Result :=
  match s.run with
  | .awaitingKey _ => .next s
  | .faulted _ => .next s
  | .running =>
    match fetchInstr Params.oobPolicy s with
    | .error f => raise f s
    | .ok i => execute i s

/-- The state with an instruction word, numbered as the opcode table numbers it, where the next cycle
fetches: its two bytes at PC and PC + 1, high byte first, and RUN Running, without which nothing is
fetched. It stands for the host's `load`. Log entry 7. -/
def placeWord (s : State) (nbits w : Nat) : State :=
  let bits := w % 2 ^ nbits
  (s.setMem (s.mem.storeRun .fault s.pc.toNat
    [BitVec.ofNat 8 (bits / 256), BitVec.ofNat 8 bits])).setRun .running

end Sys2Proof.Machine
end

