-- ==== Sys2Proof/Machine/Flags.lean ====
section
/-! DEFINITION. Machine/Flags.lean: every computation of the only flag, VF (10_state.md R39), and its
write. -/

namespace Sys2Proof.Machine

/-- The register VF is `V[15]` (10_state.md R22). -/
def flagReg : Reg := 15

/-- A flag as the byte VF holds. -/
def flagByte (f : Bool) : Byte := if f then 1 else 0

/-- `V[15] <- flag`. -/
def State.setFlag (s : State) (f : Bool) : State := s.setV flagReg (flagByte f)

/-- Carry out of an 8-bit add (43_alu.md R165): the exact sum is above 255. -/
def carryOut (a b : Byte) : Bool := decide (a.toNat + b.toNat > 255)

/-- No borrow in `a - b` (43_alu.md R166, R168): `a >= b`. -/
def noBorrow (a b : Byte) : Bool := decide (a.toNat ≥ b.toNat)

/-- The bit a right shift puts out (43_alu.md R167). -/
def shiftedOutLow (a : Byte) : Bool := a.getLsbD 0

/-- The bit a left shift puts out (43_alu.md R169). -/
def shiftedOutHigh (a : Byte) : Bool := a.getLsbD 7

/-- The flag of `Fx1E` (48_index_memory.md R210): the exact sum of I and `V[x]` is above the limit. -/
def indexOverflow (limit : Nat) (i : Word) (a : Byte) : Bool := decide (i.toNat + a.toNat > limit)

/-- The two writes of a flag-writing ALU instruction, the result first and the flag last (43_alu.md
R160), so that with x = 15 the flag stays; then the default advance. -/
def State.writeWithFlag (s : State) (x : Reg) (result : Byte) (flag : Bool) : State :=
  ((s.setV x result).setFlag flag).advance

end Sys2Proof.Machine
end

