-- ==== Sys2Proof/Machine/Operands.lean ====
section
/-! DEFINITION. Machine/Operands.lean: every operand form of the instruction set. A register operand is
`State.getV`; an immediate byte is used as it is. -/

namespace Sys2Proof.Machine

/-- A 12-bit address operand, zero-extended (30_encoding.md R93). -/
def target (nnn : BitVec 12) : Word := nnn.zeroExtend 16

/-- The operand of a shift (43_alu.md R167, R169): `V[x]`, or `V[y]` with `SHIFT_SOURCE = Vy`. -/
def shiftOperand (source : Config.ShiftSource) (x y : Reg) (s : State) : Byte :=
  match source with
  | .vx => s.getV x
  | .vy => s.getV y

/-- The key that a key test names (46_keypad.md R190): none when `V[x] > 15`, or with
`KEY_INDEX_POLICY = low_nibble` the low nibble. -/
def keyNumber (policy : Config.KeyIndexPolicy) (k : Byte) : Option Reg :=
  match policy with
  | .fault => if h : k.toNat < 16 then some ⟨k.toNat, h⟩ else none
  | .lowNibble => some (k.extractLsb' 0 4).toFin

/-- `KEY[k]`. -/
def State.keyPressed (s : State) (k : Reg) : Bool := s.keys.get k

/-- The effective address `I`, as an exact integer (20_memory.md R69); a transfer counts up from it
without wrapping. -/
def State.indexAddress (s : State) : Nat := s.i.toNat

/-- I after a transfer of `count` bytes: `(I + count) mod 2^16` (48_index_memory.md R213, R214). -/
def State.indexPast (s : State) (count : Nat) : Word := s.i + BitVec.ofNat 16 count

/-- The address of the glyph of a value, `5 * v` (48_index_memory.md R211). -/
def glyphAddress (v : Byte) : Word := BitVec.ofNat 16 (5 * v.toNat)

/-- The decimal digits of a byte: hundreds, tens, ones (48_index_memory.md R212). -/
def decimalDigits (v : Byte) : List Byte :=
  [BitVec.ofNat 8 (v.toNat / 100), BitVec.ofNat 8 (v.toNat / 10 % 10), BitVec.ofNat 8 (v.toNat % 10)]

/-- The next random byte (42_immediate.md R156), a free value. -/
def State.draw8 (s : State) : Byte := Config.draw8 s.draws

end Sys2Proof.Machine
end

