-- ==== Sys2Proof/Machine/Alu.lean ====
section
/-! DEFINITION. Machine/Alu.lean: the register-register ALU (43_alu.md). Both operands are read from the
state at the start of the step (R160). -/

namespace Sys2Proof.Machine

/-- `8xy0` LD_REG (43_alu.md R161). -/
def execLdReg (x y : Reg) (s : State) : Result := .next (s.setV x (s.getV y)).advance

/-- `8xy1` OR (43_alu.md R162): VF is not written (R171). -/
def execOr (x y : Reg) (s : State) : Result := .next (s.setV x (s.getV x ||| s.getV y)).advance

/-- `8xy2` AND (43_alu.md R163): VF is not written (R171). -/
def execAnd (x y : Reg) (s : State) : Result := .next (s.setV x (s.getV x &&& s.getV y)).advance

/-- `8xy3` XOR (43_alu.md R164): VF is not written (R171). -/
def execXor (x y : Reg) (s : State) : Result := .next (s.setV x (s.getV x ^^^ s.getV y)).advance

/-- `8xy4` ADD_REG (43_alu.md R165). -/
def execAddReg (x y : Reg) (s : State) : Result :=
  .next (s.writeWithFlag x (s.getV x + s.getV y) (carryOut (s.getV x) (s.getV y)))

/-- `8xy5` SUB (43_alu.md R166). -/
def execSub (x y : Reg) (s : State) : Result :=
  .next (s.writeWithFlag x (s.getV x - s.getV y) (noBorrow (s.getV x) (s.getV y)))

/-- `8xy6` SHR (43_alu.md R167): a logical shift by one. -/
def execShr (x y : Reg) (s : State) : Result :=
  let a := shiftOperand Params.shiftSource x y s
  .next (s.writeWithFlag x (a >>> 1) (shiftedOutLow a))

/-- `8xy7` SUBN (43_alu.md R168). -/
def execSubn (x y : Reg) (s : State) : Result :=
  .next (s.writeWithFlag x (s.getV y - s.getV x) (noBorrow (s.getV y) (s.getV x)))

/-- `8xyE` SHL (43_alu.md R169). -/
def execShl (x y : Reg) (s : State) : Result :=
  let a := shiftOperand Params.shiftSource x y s
  .next (s.writeWithFlag x (a <<< 1) (shiftedOutHigh a))

end Sys2Proof.Machine
end

