-- ==== Sys2Proof/Machine/Display.lean ====
section
/-! DEFINITION. Machine/Display.lean: the drawing instructions (45_display.md). -/

namespace Sys2Proof.Machine

/-- `00E0` CLS (45_display.md R180): REDRAW is set whatever the framebuffer held (R184). -/
def execCls (s : State) : Result := .next ((s.setFb Framebuffer.clear).setRedraw true).advance

/-- `Dxyn` DRW (45_display.md R181): all n reads first, then the pixels, VF, REDRAW and PC. -/
def execDrw (x y : Reg) (n : Nat) (s : State) : Result :=
  match readRun Params.oobPolicy s s.indexAddress n with
  | .error f => raise f s
  | .ok bs =>
    let d := drawRows (s.getV x).toNat (s.getV y).toNat 0 bs ⟨s.fb, false⟩
    .next (((s.setFb d.fb).setFlag d.collision).setRedraw true).advance

end Sys2Proof.Machine
end

