-- ==== Sys2Proof/Machine/Flow.lean ====
section
/-! DEFINITION. Machine/Flow.lean: the control transfers (40_sequencer_and_flow.md). -/

namespace Sys2Proof.Machine

/-- `00EE` RET (40_sequencer_and_flow.md R128): underflow, or PC is the popped entry plus 2. -/
def execRet (s : State) : Result :=
  match s.pop with
  | none => raise (.stackUnderflow s.pc) s
  | some (w, t) => .next (t.setPc (w + 2))

/-- `1nnn` JP (40_sequencer_and_flow.md R126). -/
def execJp (nnn : BitVec 12) (s : State) : Result := .next (s.setPc (target nnn))

/-- `2nnn` CALL (40_sequencer_and_flow.md R127): overflow, or the call's own address is pushed. -/
def execCall (nnn : BitVec 12) (s : State) : Result :=
  match s.push s.pc with
  | none => raise (.stackOverflow s.pc) s
  | some t => .next (t.setPc (target nnn))

/-- `Bnnn` JP_V0 (40_sequencer_and_flow.md R129): the sum is not reduced to 12 bits. -/
def execJpV0 (nnn : BitVec 12) (s : State) : Result :=
  .next (s.setPc (target nnn + (s.getV 0).zeroExtend 16))

end Sys2Proof.Machine
end

