-- ==== Sys2Proof/Machine/Immediate.lean ====
section
/-! DEFINITION. Machine/Immediate.lean: immediate loads, immediate add, random (42_immediate.md). -/

namespace Sys2Proof.Machine

/-- `6xkk` LD_IMM (42_immediate.md R151). -/
def execLdImm (x : Reg) (kk : Byte) (s : State) : Result := .next (s.setV x kk).advance

/-- `7xkk` ADD_IMM (42_immediate.md R152): modulo 256, the carry discarded. -/
def execAddImm (x : Reg) (kk : Byte) (s : State) : Result :=
  .next (s.setV x (s.getV x + kk)).advance

/-- `Annn` LD_I (42_immediate.md R153). -/
def execLdI (nnn : BitVec 12) (s : State) : Result := .next (s.setI (target nnn)).advance

/-- `Cxkk` RND (42_immediate.md R154): a fresh free byte, masked. FREE VALUE, log entry 1. -/
def execRnd (x : Reg) (kk : Byte) (s : State) : Result :=
  .next ((s.setV x (s.draw8 &&& kk)).setDraws (s.draws + 1)).advance

end Sys2Proof.Machine
end

