-- ==== Sys2Proof/Machine/Index.lean ====
section
/-! DEFINITION. Machine/Index.lean: the index register and memory transfer (48_index_memory.md). -/

namespace Sys2Proof.Machine

/-- `Fx1E` ADD_I (48_index_memory.md R210): `V[x]` is read before VF is written. -/
def execAddI (x : Reg) (s : State) : Result :=
  let a := s.getV x
  .next ((s.setI (BitVec.ofNat 16 (s.i.toNat + a.toNat))).setFlag
    (indexOverflow Params.fx1eLimit s.i a)).advance

/-- `Fx29` LD_F (48_index_memory.md R211): the whole `V[x]` is multiplied. -/
def execLdF (x : Reg) (s : State) : Result := .next (s.setI (glyphAddress (s.getV x))).advance

/-- `Fx33` LD_B (48_index_memory.md R212): three bytes at I, I not changed. -/
def execLdB (x : Reg) (s : State) : Result :=
  match storeBytes Params.oobPolicy Params.fontProtect s.indexAddress (decimalDigits (s.getV x)) s with
  | .error f => raise f s
  | .ok t => .next t.advance

/-- `Fx55` ST_REGS (48_index_memory.md R213): `V[0]` to `V[x]` at I, then I past them. -/
def execStRegs (x : Reg) (s : State) : Result :=
  match storeBytes Params.oobPolicy Params.fontProtect s.indexAddress (s.regsUpTo x) s with
  | .error f => raise f s
  | .ok t => .next (t.setI (s.indexPast (x.val + 1))).advance

/-- `Fx65` LD_REGS (48_index_memory.md R214): all reads, then `V[0]` to `V[x]`, then I past them. -/
def execLdRegs (x : Reg) (s : State) : Result :=
  match readRun Params.oobPolicy s s.indexAddress (x.val + 1) with
  | .error f => raise f s
  | .ok bs => .next ((s.setRegs (writeRegsFrom s.v 0 bs)).setI (s.indexPast (x.val + 1))).advance

end Sys2Proof.Machine
end

