-- ==== Sys2Proof/Machine/Keypad.lean ====
section
/-! DEFINITION. Machine/Keypad.lean: the key tests and the wait for a key (46_keypad.md). -/

namespace Sys2Proof.Machine

/-- `Ex9E` SKP (46_keypad.md R190). -/
def execSkp (x : Reg) (s : State) : Result :=
  match keyNumber Params.keyIndexPolicy (s.getV x) with
  | none => raise (.keyIndexError (s.getV x) s.pc) s
  | some k => .next (s.skipIf (s.keyPressed k))

/-- `ExA1` SKNP (46_keypad.md R191). -/
def execSknp (x : Reg) (s : State) : Result :=
  match keyNumber Params.keyIndexPolicy (s.getV x) with
  | none => raise (.keyIndexError (s.getV x) s.pc) s
  | some k => .next (s.skipIf (!s.keyPressed k))

/-- `Fx0A` LD_VX_K (46_keypad.md R192): the wait begins, PC advances now, KEY is not looked at. -/
def execLdVxK (x : Reg) (s : State) : Result := .next (s.setRun (.awaitingKey x)).advance

end Sys2Proof.Machine
end

