-- ==== Sys2Proof/Machine/Skip.lean ====
section
/-! DEFINITION. Machine/Skip.lean: the skips on registers (41_skip.md R140). -/

namespace Sys2Proof.Machine

/-- `3xkk` SE_IMM (41_skip.md R141). -/
def execSeImm (x : Reg) (kk : Byte) (s : State) : Result := .next (s.skipIf (s.getV x == kk))

/-- `4xkk` SNE_IMM (41_skip.md R142). -/
def execSneImm (x : Reg) (kk : Byte) (s : State) : Result := .next (s.skipIf (s.getV x != kk))

/-- `5xy0` SE_REG (41_skip.md R143). -/
def execSeReg (x y : Reg) (s : State) : Result := .next (s.skipIf (s.getV x == s.getV y))

/-- `9xy0` SNE_REG (41_skip.md R144). -/
def execSneReg (x y : Reg) (s : State) : Result := .next (s.skipIf (s.getV x != s.getV y))

end Sys2Proof.Machine
end

