-- ==== Sys2Proof/Machine/Timers.lean ====
section
/-! DEFINITION. Machine/Timers.lean: the timer instructions (47_timers.md). No step decrements a timer
(R203). -/

namespace Sys2Proof.Machine

/-- `Fx07` LD_VX_DT (47_timers.md R200). -/
def execLdVxDt (x : Reg) (s : State) : Result := .next (s.setV x s.dt).advance

/-- `Fx15` LD_DT_VX (47_timers.md R201). -/
def execLdDtVx (x : Reg) (s : State) : Result := .next (s.setDt (s.getV x)).advance

/-- `Fx18` LD_ST_VX (47_timers.md R202). -/
def execLdStVx (x : Reg) (s : State) : Result := .next (s.setSt (s.getV x)).advance

end Sys2Proof.Machine
end

