-- ==== Sys2Proof/Machine/Step.lean ====
section
/-! DEFINITION. Machine/Step.lean: the step of the machine (40_sequencer_and_flow.md R120) and the place
where it fetches. -/

namespace Sys2Proof.Machine

/-- One step: the cycle driver over `exec`. -/
def step : State → Host.Outcome State Fault Refusal := Sys2Proof.Machine.cycle Sys2Proof.Machine.exec

/-- The state with that instruction where `step` fetches next. -/
def State.withFetchWord (s : State) (nbits w : Nat) : State := Sys2Proof.Machine.placeWord s nbits w

end Sys2Proof.Machine
end

