-- ==== Sys2Proof/Machine/HostOps.lean ====
section
/-! DEFINITION. Machine/HostOps.lean: the host operations (60_exceptions.md R241), each atomic and between
steps (R242), and sequences of them over a session. A call outside its domain is refused (R244). -/

namespace Sys2Proof.Machine

/-- `reset()` (70_reset_and_hazards.md R260), at any time. The draws go on counting, so that a second
run may draw other bytes than the first. Log entry 1. -/
def hostReset (s : State) : State := State.reset.setDraws s.draws

/-- `load(bytes)` (70_reset_and_hazards.md R263): no check of the font or the range applies to the copy
itself. The boot window is checked by `Session.apply`. -/
def load (bytes : List Byte) (s : State) : Result :=
  if bytes.length = 0 then .refused .loadEmptyProgram
  else if Params.loadAddress + bytes.length > Params.memSize then .refused .loadProgramTooLarge
  else .next (s.setMem (s.mem.storeRun .fault Params.loadAddress bytes))

/-- `set_key(index, pressed)` (46_keypad.md R194), in every RUN state. -/
def setKey (index : Nat) (pressed : Bool) (s : State) : Result :=
  if h : index < 16 then .next (s.setKeys (s.keys.set index pressed h))
  else .refused (.setKeyIndex index)

/-- `resolve_key(value)` (46_keypad.md R195). -/
def resolveKey (value : Nat) (s : State) : Result :=
  match s.run with
  | .awaitingKey r =>
    if value < 16 then .next ((s.setV r (BitVec.ofNat 8 value)).setRun .running)
    else .refused (.resolveKeyValue value)
  | .running => .refused .resolveKeyNotAwaiting
  | .faulted _ => .refused .resolveKeyNotAwaiting

/-- `is_awaiting_key()` (46_keypad.md R196). -/
def isAwaitingKey (s : State) : Bool :=
  match s.run with
  | .awaitingKey _ => true
  | .running => false
  | .faulted _ => false

/-- A timer after n ticks: `max(0, t - n)` (47_timers.md R203). -/
def tickDown (t : Byte) (n : Nat) : Byte := BitVec.ofNat 8 (t.toNat - n)

/-- `tick_delay(n)` (47_timers.md R203). -/
def tickDelay (n : Nat) (s : State) : State := s.setDt (tickDown s.dt n)

/-- `tick_sound(n)` (47_timers.md R204). -/
def tickSound (n : Nat) (s : State) : State := s.setSt (tickDown s.st n)

/-- `tick_timers(n)` (47_timers.md R205): both at once. -/
def tickTimers (n : Nat) (s : State) : State := tickSound n (tickDelay n s)

/-- `read_framebuffer()` (45_display.md R185): the rows from the top, each from the left. -/
def readFramebuffer (s : State) : List (List Bool) :=
  (List.range Params.fbHeight).map fun row =>
    (List.range Params.fbWidth).map fun col => s.fb.pixel (pixelIndex row col)

/-- `ack_redraw()` (45_display.md R186). -/
def ackRedraw (s : State) : State := s.setRedraw false

/-- `fault_status()` (10_state.md R40): the cause (`FaultRecord.code`) and the info of `Faulted`. -/
def faultStatus (s : State) : Option FaultRecord :=
  match s.run with
  | .faulted f => some f
  | .running => none
  | .awaitingKey _ => none

/-- `sound_on()` (47_timers.md R207). -/
def soundOn (s : State) : Bool := s.st != 0

/-- What `step()` returns to the host, from the state after the step: REDRAW (40_sequencer_and_flow.md
R125). -/
def stepReturn (s : State) : Bool := s.redraw

/-- The host operations (60_exceptions.md R241). A tick count is non-negative by its type. -/
inductive HostOp where
  | reset
  | load (bytes : List Byte)
  | step
  | setKey (index : Nat) (pressed : Bool)
  | resolveKey (value : Nat)
  | isAwaitingKey
  | tickTimers (n : Nat)
  | tickDelay (n : Nat)
  | tickSound (n : Nat)
  | readFramebuffer
  | ackRedraw
  | faultStatus
  | soundOn
deriving DecidableEq, Repr

/-- What an operation gives back to the host. -/
inductive HostReply where
  | done
  | redraw (b : Bool)
  | awaiting (b : Bool)
  | pixels (rows : List (List Bool))
  | status (f : Option FaultRecord)
  | sound (b : Bool)
deriving DecidableEq, Repr

/-- The core as its host holds it: whether `load` is still defined is no state of the CORE (10_state.md
R20) but bookkeeping of the model. It is from a reset until the first step or the first load that succeeds
(70_reset_and_hazards.md R265, R264; 93_implementation_defined.md U15). Log entry 8. -/
structure Session where
  core : State
  loadable : Bool
deriving DecidableEq, Repr

/-- A session right after `reset`. -/
def Session.fresh : Session := ⟨State.reset, true⟩

/-- Keep the session's bookkeeping around an operation that answers a state. -/
def Session.answer (r : Result) (loadable : Bool) (reply : State → HostReply) :
    Host.Outcome (Session × HostReply) Fault Refusal :=
  match r with
  | .next s => .next (⟨s, loadable⟩, reply s)
  | .fault f => .fault f
  | .refused e => .refused e

/-- One host operation on a session (60_exceptions.md R240 to R244). -/
def Session.apply (op : HostOp) (c : Session) : Host.Outcome (Session × HostReply) Fault Refusal :=
  match op with
  | .reset => .next (⟨hostReset c.core, true⟩, .done)
  | .load bytes =>
    if c.loadable then Session.answer (Sys2Proof.Machine.load bytes c.core) false (fun _ => .done)
    else .refused .loadOutsideBoot
  | .step => Session.answer (Sys2Proof.Machine.step c.core) false (fun s => .redraw (stepReturn s))
  | .setKey index pressed =>
    Session.answer (Sys2Proof.Machine.setKey index pressed c.core) c.loadable (fun _ => .done)
  | .resolveKey value =>
    Session.answer (Sys2Proof.Machine.resolveKey value c.core) c.loadable (fun _ => .done)
  | .isAwaitingKey => .next (c, .awaiting (Sys2Proof.Machine.isAwaitingKey c.core))
  | .tickTimers n => .next (⟨Sys2Proof.Machine.tickTimers n c.core, c.loadable⟩, .done)
  | .tickDelay n => .next (⟨Sys2Proof.Machine.tickDelay n c.core, c.loadable⟩, .done)
  | .tickSound n => .next (⟨Sys2Proof.Machine.tickSound n c.core, c.loadable⟩, .done)
  | .readFramebuffer => .next (c, .pixels (Sys2Proof.Machine.readFramebuffer c.core))
  | .ackRedraw => .next (⟨Sys2Proof.Machine.ackRedraw c.core, c.loadable⟩, .done)
  | .faultStatus => .next (c, .status (Sys2Proof.Machine.faultStatus c.core))
  | .soundOn => .next (c, .sound (Sys2Proof.Machine.soundOn c.core))

/-- An execution: a sequence of operations, each applied to the session the previous one left
(60_exceptions.md R242). It ends at the first operation that is refused. -/
def Session.applyAll : List HostOp → Session → Host.Outcome Session Fault Refusal
  | [], c => .next c
  | op :: ops, c =>
    match Session.apply op c with
    | .next (c', _) => Session.applyAll ops c'
    | .fault f => .fault f
    | .refused e => .refused e

end Sys2Proof.Machine
end

