-- ==== Sys2Proof/Safety.lean ====
section
/-! DEFINITION. Safety.lean: what a safe run is, the invariants of the machine, and the frame of a step,
in the terms the claims use. -/

namespace Sys2Proof.Machine

/-! ### Runs -/

/-- The run has gone wrong: a `Faulted` core is never a finished run (60_exceptions.md R224). -/
def State.goneWrong (s : State) : Bool := (faultStatus s).isSome

/-- The two bytes at PC as an instruction word (20_memory.md R64), whether or not PC can be fetched
from. -/
def State.wordAtPc (s : State) : Word :=
  wordOfBytes (s.byteAt s.pc.toNat) (s.byteAt (s.pc.toNat + 1))

/-- The run has ended: Running at a `1nnn` that jumps to itself (70_reset_and_hazards.md R279). -/
def State.ended (s : State) : Prop :=
  s.run = .running ∧ s.pc.toNat ≤ 0xFFE ∧ s.wordAtPc = 0x1000 + s.pc

/-- A session the host can bring about from reset (60_exceptions.md R242, R243). -/
def Session.Reachable (c : Session) : Prop :=
  ∃ ops : List HostOp, Session.applyAll ops Session.fresh = .next c

/-! ### Invariants -/

/-- Memory is canonical, the font holds what reset put there (10_state.md R33), and PC and the return
addresses keep the bounds of 40_sequencer_and_flow.md R131. -/
structure State.Inv (s : State) : Prop where
  memCanonical : s.mem.wf = true
  fontIntact : ∀ a, a < Params.fontSize → s.byteAt a = Params.font.getD a 0
  pcBound : s.pc.toNat ≤ 0x10FE
  stackBound : ∀ j : Fin 16, (s.stk.get j).toNat ≤ 0xFFE

/-- The PC that a fault records (60_exceptions.md R224). -/
def FaultRecord.pc : FaultRecord → Word
  | .decodeError _ pc => pc
  | .stackOverflow pc => pc
  | .stackUnderflow pc => pc
  | .addressError _ _ pc => pc
  | .keyIndexError _ pc => pc

/-- The condition under which 60_exceptions.md R220 lets a fault be raised. -/
def FaultRecord.Justified (s : State) : FaultRecord → Prop
  | .decodeError op _ => decodeWord op = none
  | .stackOverflow _ => s.sp.val = 16
  | .stackUnderflow _ => s.sp.val = 0
  | .addressError a .fetch pc => a = pc.toNat ∧ 0xFFE < a
  | .addressError a .read _ => 0xFFF < a
  | .addressError a .write _ => 0xFFF < a
  | .addressError a .fontWrite _ => a ≤ 0x04F
  | .keyIndexError k _ => 15 < k.toNat

/-- The record of a faulted core names the instruction PC still points at and a condition that held. -/
def State.Truthful (s : State) : Prop :=
  ∀ f, s.run = .faulted f → f.pc = s.pc ∧ f.Justified s

/-! ### Frames -/

/-- The parts of the state beside PC. -/
inductive Part where
  | regs
  | index
  | stack
  | delay
  | sound
  | memory
  | framebuffer
  | redraw
  | keys
  | run
  | draws
deriving DecidableEq, Repr

/-- The part reads the same in both states; of memory every byte. -/
def Unchanged (s t : State) : Part → Prop
  | .regs => ∀ r, t.getV r = s.getV r
  | .index => t.i = s.i
  | .stack => t.stk = s.stk ∧ t.sp = s.sp
  | .delay => t.dt = s.dt
  | .sound => t.st = s.st
  | .memory => ∀ a, t.byteAt a = s.byteAt a
  | .framebuffer => ∀ k, t.fb.pixel k = s.fb.pixel k
  | .redraw => t.redraw = s.redraw
  | .keys => ∀ k, t.keyPressed k = s.keyPressed k
  | .run => t.run = s.run
  | .draws => t.draws = s.draws

/-- Every part but the listed ones is unchanged. -/
def OnlyChanges (ps : List Part) (s t : State) : Prop := ∀ p, p ∉ ps → Unchanged s t p

/-- An answer with its next state changed; a stop stays. -/
def mapNext (f : State → State) (r : Result) : Result :=
  match r with
  | .next s => .next (f s)
  | .fault e => .fault e
  | .refused e => .refused e

/-! ### Encodings -/

/-- Exactly the words that agree with the pattern under the mask, and whose fields are the operands, decode
to the instruction. -/
def WordsOf (i : Instr) (mask pattern : Word) (operands : Word → Prop) : Prop :=
  ∀ op, decodeWord op = some i ↔ op &&& mask = pattern ∧ operands op

/-! ### Who writes what -/

/-- The parts of the state that an instruction may write (10_state.md R35); `run` is also written by a
fault. -/
def writers : Part → Instr → Bool
  | .regs, .ldImm _ _ | .regs, .addImm _ _ | .regs, .ldReg _ _ | .regs, .orReg _ _
  | .regs, .andReg _ _ | .regs, .xorReg _ _ | .regs, .addReg _ _ | .regs, .sub _ _
  | .regs, .shr _ _ | .regs, .subn _ _ | .regs, .shl _ _ | .regs, .rnd _ _ | .regs, .drw _ _ _
  | .regs, .ldVxDt _ | .regs, .addI _ | .regs, .ldRegs _ => true
  | .index, .ldI _ | .index, .addI _ | .index, .ldF _ | .index, .stRegs _ | .index, .ldRegs _ => true
  | .stack, .call _ | .stack, .ret => true
  | .delay, .ldDtVx _ => true
  | .sound, .ldStVx _ => true
  | .memory, .ldB _ | .memory, .stRegs _ => true
  | .framebuffer, .cls | .framebuffer, .drw _ _ _ => true
  | .redraw, .cls | .redraw, .drw _ _ _ => true
  | .run, .ldVxK _ => true
  | .draws, .rnd _ _ => true
  | _, _ => false

/-- The parts of the state that a host operation other than `step` and `reset` may write (10_state.md
R35). -/
def hostWriters : Part → HostOp → Bool
  | .regs, .resolveKey _ => true
  | .run, .resolveKey _ => true
  | .delay, .tickDelay _ | .delay, .tickTimers _ => true
  | .sound, .tickSound _ | .sound, .tickTimers _ => true
  | .memory, .load _ => true
  | .redraw, .ackRedraw => true
  | .keys, .setKey _ _ => true
  | _, _ => false

/-- The instructions that write VF as a side effect (10_state.md R39). -/
def writesFlag : Instr → Bool
  | .addReg _ _ | .sub _ _ | .shr _ _ | .subn _ _ | .shl _ _ | .drw _ _ _ | .addI _ => true
  | _ => false

/-- VF is a named destination of the instruction: x = 15 where `V[x]` is written (10_state.md R39). -/
def namesFlag : Instr → Bool
  | .ldImm x _ | .addImm x _ | .rnd x _ | .ldReg x _ | .orReg x _ | .andReg x _ | .xorReg x _
  | .ldVxDt x | .ldRegs x => decide (x = 15)
  | _ => false

/-! ### Sprites -/

/-- The sprite of a `Dxyn` in state s has a 1 pixel at that row and column of the screen (45_display.md
R181, R182): column c of row r is bit 7 - c of the byte at I + r. -/
def SpriteAt (s : State) (x y : Reg) (n row col : Nat) : Prop :=
  ∃ r c, r < n ∧ c < 8 ∧ (s.byteAt (s.i.toNat + r)).getLsbD (7 - c) = true ∧
    row = ((s.getV y).toNat + r) % 32 ∧ col = ((s.getV x).toNat + c) % 64

end Sys2Proof.Machine
end

