-- ==== Sys2Proof/Certificates/Slice0/Obligations.lean ====
section
/-! DEFINITION. Certificates/Slice0/Obligations.lean: the statements for the provers. Each docstring names
the rule of spec/ it formalises. -/

open Sys2Proof Sys2Proof.Machine

/-! ### Reset and the cycle driver -/

/-- 10_state.md R37: the reset value of every element; the font bytes are the parameter FONT. -/
def Obligations.ResetLeavesTheStatedValues : Prop :=
  (∀ r, State.reset.getV r = 0) ∧ State.reset.i = 0 ∧ State.reset.pc = 0x0200 ∧
  (∀ j : Fin 16, State.reset.stk.get j = 0) ∧ State.reset.sp = 0 ∧
  State.reset.dt = 0 ∧ State.reset.st = 0 ∧
  Params.font.length = 80 ∧
  (∀ a, a < 80 → some (State.reset.byteAt a) = Params.font[a]?) ∧
  (∀ a, 80 ≤ a → a < 4096 → State.reset.byteAt a = 0) ∧
  (∀ k, k < 2048 → State.reset.fb.pixel k = false) ∧ State.reset.redraw = false ∧
  (∀ k, State.reset.keyPressed k = false) ∧ State.reset.run = .running

/-- The step at a decoded instruction is `exec` of it; nothing else is around `exec`. The bytes at PC are
read high byte first (20_memory.md R64). -/
def Obligations.StepRunsTheDecodedInstruction : Prop :=
  ∀ s i, s.run = .running → s.pc.toNat ≤ 0xFFE →
    decodeWord (wordOfBytes (s.byteAt s.pc.toNat) (s.byteAt (s.pc.toNat + 1))) = some i →
    step s = exec i s

/-- 40_sequencer_and_flow.md R120, R121, R122: the gate on RUN, and the two faults before execution;
the operation returns REDRAW (R125). The Faulted arm and the state a fault leaves are the spec's own
decision D3, the sticky return value its decision D12. The operation ends the boot window of `load`
(70_reset_and_hazards.md R265, its decision D18); how the model keeps that is log entry 8. -/
def Obligations.CycleDriverGatesFetchesAndDecodes : Prop :=
  ∀ s : State,
    (∀ r, s.run = .awaitingKey r → step s = .next s) ∧
    (∀ f, s.run = .faulted f → step s = .next s) ∧
    (s.run = .running → 0xFFE < s.pc.toNat →
      step s = .next { s with run := .faulted (.addressError s.pc.toNat .fetch s.pc) }) ∧
    (s.run = .running → s.pc.toNat ≤ 0xFFE → decodeWord s.wordAtPc = none →
      step s = .next { s with run := .faulted (.decodeError s.wordAtPc s.pc) }) ∧
    (s.run = .running → s.pc.toNat ≤ 0xFFE → ∀ i, decodeWord s.wordAtPc = some i →
      step s = exec i s) ∧
    (∀ b t, step s = .next t → Session.apply .step ⟨s, b⟩ = .next (⟨t, false⟩, .redraw t.redraw))

/-- Every step, and every instruction in every state, answers a next state: the CORE's faults are states
(60_exceptions.md R224, the spec's own decision D3; log entry 6). -/
def Obligations.EveryStepAndInstructionAnswers : Prop :=
  ∀ s, (∃ t, step s = .next t) ∧ ∀ i, ∃ t, exec i s = .next t

/-! ### Encoding -/

/-- Decoding what the encoder writes gives the instruction back, as a word, as bytes and as the opcode
table numbers it (30_encoding.md R90 to R102; which nibble is which ALU operation is the spec's own
decision D6). -/
def Obligations.DecodeInvertsEncode : Prop :=
  ∀ i : Instr, i.wellFormed = true →
    decodeWord (encode i) = some i ∧
    (∀ rest, decodeBytes (encodeBytes i ++ rest) = .ok (i, rest)) ∧
    decodeTableWord 16 (encode i).toNat = some i

/-- A decoded word is the word of the instruction it decodes to, which is well-formed: no bit is lost. -/
def Obligations.EncodeInvertsDecode : Prop :=
  ∀ op i, decodeWord op = some i → i.wellFormed = true ∧ encode i = op

/-- 30_encoding.md R94, which the spec derives from its rows: a word selects the row whose match it has
under its mask; no word selects two rows; one that selects none is illegal. -/
def Obligations.OpcodeTableDecides : Prop :=
  opcodeTable.length = 34 ∧
  opcodeTable.Pairwise (fun p q => ∀ op, ¬(p.selects op = true ∧ q.selects op = true)) ∧
  ∀ op,
    (∀ i, decodeWord op = some i → rowOf i ∈ opcodeTable ∧ (rowOf i).selects op = true) ∧
    (decodeWord op = none ↔ ∀ row ∈ opcodeTable, row.selects op = false)

/-- 30_encoding.md R104, which the spec derives from its rows: the illegal words, group by group, without
the counts. -/
def Obligations.IllegalWordsAreExactlyThese : Prop :=
  ∀ op : Word, decodeWord op = none ↔
    (op.toNat / 4096 = 0x0 ∧ op ≠ 0x00E0 ∧ op ≠ 0x00EE) ∨
    (op.toNat / 4096 = 0x5 ∧ op.toNat % 16 ≠ 0) ∨
    (op.toNat / 4096 = 0x8 ∧ op.toNat % 16 ∈ [0x8, 0x9, 0xA, 0xB, 0xC, 0xD, 0xF]) ∨
    (op.toNat / 4096 = 0x9 ∧ op.toNat % 16 ≠ 0) ∨
    (op.toNat / 4096 = 0xE ∧ op.toNat % 256 ∉ [0x9E, 0xA1]) ∨
    (op.toNat / 4096 = 0xF ∧
      op.toNat % 256 ∉ [0x07, 0x0A, 0x15, 0x18, 0x1E, 0x29, 0x33, 0x55, 0x65])

/-- 30_encoding.md R92: the six fields, and how they overlap. -/
def Obligations.FieldsAreTheBitSlices : Prop :=
  ∀ op : Word,
    (fieldGroup op).toNat = op.toNat / 4096 ∧
    (fieldX op).val = op.toNat / 256 % 16 ∧
    (fieldY op).val = op.toNat / 16 % 16 ∧
    (fieldN op).toNat = op.toNat % 16 ∧
    (fieldKk op).toNat = op.toNat % 256 ∧
    (fieldNnn op).toNat = op.toNat % 4096 ∧
    (fieldKk op).toNat = (fieldY op).val * 16 + (fieldN op).toNat ∧
    (fieldNnn op).toNat = (fieldX op).val * 256 + ((fieldY op).val * 16 + (fieldN op).toNat)

/-- Words of 95_test_vectors.md (DEC-1 to DEC-12) decode as it says; which low nibble of group 8 is SUB and
which is SHL is the spec's own decision D6. -/
def Obligations.VectorWordsDecode : Prop :=
  decodeWord 0x00E0 = some .cls ∧ decodeWord 0x00EE = some .ret ∧ decodeWord 0x0123 = none ∧
  decodeWord 0x5AB0 = some (.seReg 0xA 0xB) ∧ decodeWord 0x5AB1 = none ∧
  decodeWord 0x8AB5 = some (.sub 0xA 0xB) ∧ decodeWord 0x8ABE = some (.shl 0xA 0xB) ∧
  decodeWord 0xDABC = some (.drw 0xA 0xB 0xC) ∧ decodeWord 0xEA9E = some (.skp 0xA) ∧
  decodeWord 0xFA65 = some (.ldRegs 0xA) ∧ decodeWord 0xFA85 = none

/-! ### Control transfer -/

/-- 40_sequencer_and_flow.md R126. -/
def Obligations.JumpSetsPc : Prop :=
  ∀ nnn s,
    WordsOf (.jp nnn) 0xF000 0x1000 (fun op => fieldNnn op = nnn) ∧
    ∃ t, exec (.jp nnn) s = .next t ∧ t.pc.toNat = nnn.toNat ∧ OnlyChanges [] s t

/-- 40_sequencer_and_flow.md R127: the pushed value is the address of the call itself. What the overflow
leaves is the spec's own decision D3 (60_exceptions.md R224), how SP counts its decision D13. -/
def Obligations.CallPushesItsOwnAddress : Prop :=
  ∀ nnn s,
    WordsOf (.call nnn) 0xF000 0x2000 (fun op => fieldNnn op = nnn) ∧
    (s.sp.val < 16 →
      ∃ t, exec (.call nnn) s = .next t ∧ t.pc.toNat = nnn.toNat ∧ t.sp.val = s.sp.val + 1 ∧
        (∀ j : Fin 16, t.stk.get j = if j.val = s.sp.val then s.pc else s.stk.get j) ∧
        OnlyChanges [.stack] s t) ∧
    (s.sp.val = 16 → exec (.call nnn) s = .next { s with run := .faulted (.stackOverflow s.pc) })

/-- 40_sequencer_and_flow.md R128: PC is the popped entry plus 2, and the entry keeps its value. What the
underflow leaves is the spec's own decision D3 (60_exceptions.md R224), how SP counts its decision D13. -/
def Obligations.ReturnPopsAndAddsTwo : Prop :=
  ∀ s : State,
    WordsOf .ret 0xFFFF 0x00EE (fun _ => True) ∧
    (∀ j : Fin 16, s.sp.val = j.val + 1 →
      ∃ t, exec .ret s = .next t ∧ t.pc = s.stk.get j + 2 ∧ t.sp.val = s.sp.val - 1 ∧
        t.stk = s.stk ∧ OnlyChanges [.stack] s t) ∧
    (s.sp.val = 0 → exec .ret s = .next { s with run := .faulted (.stackUnderflow s.pc) })

/-- 40_sequencer_and_flow.md R129: the sum is not reduced to 12 bits. -/
def Obligations.IndexedJumpAddsV0 : Prop :=
  ∀ nnn s,
    WordsOf (.jpV0 nnn) 0xF000 0xB000 (fun op => fieldNnn op = nnn) ∧
    ∃ t, exec (.jpV0 nnn) s = .next t ∧ t.pc.toNat = nnn.toNat + (s.getV 0).toNat ∧
      OnlyChanges [] s t

/-! ### Skips -/

/-- 41_skip.md R141 and R142: skips on an immediate; PC advances by 4 or by 2 and nothing else changes. -/
def Obligations.SkipsOnImmediate : Prop :=
  ∀ x kk s,
    (WordsOf (.seImm x kk) 0xF000 0x3000 (fun op => fieldX op = x ∧ fieldKk op = kk) ∧
      ∃ t, exec (.seImm x kk) s = .next t ∧
        t.pc = (if s.getV x = kk then s.pc + 4 else s.pc + 2) ∧ OnlyChanges [] s t) ∧
    (WordsOf (.sneImm x kk) 0xF000 0x4000 (fun op => fieldX op = x ∧ fieldKk op = kk) ∧
      ∃ t, exec (.sneImm x kk) s = .next t ∧
        t.pc = (if s.getV x ≠ kk then s.pc + 4 else s.pc + 2) ∧ OnlyChanges [] s t)

/-- 41_skip.md R143 and R144: skips on two registers, which may be one register. -/
def Obligations.SkipsOnRegister : Prop :=
  ∀ x y s,
    (WordsOf (.seReg x y) 0xF00F 0x5000 (fun op => fieldX op = x ∧ fieldY op = y) ∧
      ∃ t, exec (.seReg x y) s = .next t ∧
        t.pc = (if s.getV x = s.getV y then s.pc + 4 else s.pc + 2) ∧ OnlyChanges [] s t) ∧
    (WordsOf (.sneReg x y) 0xF00F 0x9000 (fun op => fieldX op = x ∧ fieldY op = y) ∧
      ∃ t, exec (.sneReg x y) s = .next t ∧
        t.pc = (if s.getV x ≠ s.getV y then s.pc + 4 else s.pc + 2) ∧ OnlyChanges [] s t)

/-! ### Immediate loads, add and random -/

/-- 42_immediate.md R151. -/
def Obligations.LoadImmediate : Prop :=
  ∀ x kk s,
    WordsOf (.ldImm x kk) 0xF000 0x6000 (fun op => fieldX op = x ∧ fieldKk op = kk) ∧
    ∃ t, exec (.ldImm x kk) s = .next t ∧ t.pc = s.pc + 2 ∧
      (∀ q, t.getV q = if q = x then kk else s.getV q) ∧ OnlyChanges [.regs] s t

/-- 42_immediate.md R152: modulo 256, no flag. -/
def Obligations.AddImmediateWrapsWithoutFlag : Prop :=
  ∀ x kk s,
    WordsOf (.addImm x kk) 0xF000 0x7000 (fun op => fieldX op = x ∧ fieldKk op = kk) ∧
    ∃ t, exec (.addImm x kk) s = .next t ∧ t.pc = s.pc + 2 ∧
      (∀ q, (t.getV q).toNat =
        if q = x then ((s.getV x).toNat + kk.toNat) % 256 else (s.getV q).toNat) ∧
      OnlyChanges [.regs] s t

/-- 42_immediate.md R153: zero-extended. -/
def Obligations.LoadIndexImmediate : Prop :=
  ∀ nnn s,
    WordsOf (.ldI nnn) 0xF000 0xA000 (fun op => fieldNnn op = nnn) ∧
    ∃ t, exec (.ldI nnn) s = .next t ∧ t.pc = s.pc + 2 ∧ t.i.toNat = nnn.toNat ∧
      OnlyChanges [.index] s t

/-- 42_immediate.md R154: the draw is the free value `Config.draw8` (R156, the spec's own decision D17).
That it is indexed by a count which each draw advances is the model's choice, log entry 1; nothing is said
of the values, so this holds for every sequence of draws. -/
def Obligations.RandomIsAMaskedDraw : Prop :=
  ∀ x kk s,
    WordsOf (.rnd x kk) 0xF000 0xC000 (fun op => fieldX op = x ∧ fieldKk op = kk) ∧
    ∃ t, exec (.rnd x kk) s = .next t ∧ t.pc = s.pc + 2 ∧ t.draws = s.draws + 1 ∧
      (∀ q, t.getV q = if q = x then Config.draw8 s.draws &&& kk else s.getV q) ∧
      (∀ k, kk.getLsbD k = false → (t.getV x).getLsbD k = false) ∧
      OnlyChanges [.regs, .draws] s t

/-! ### ALU -/

/-- 43_alu.md R161 to R164: move and bitwise; VF is not written unless x = 15 (R171, which the spec
derives). Which low nibble is which is the spec's own decision D6. -/
def Obligations.MoveAndBitwise : Prop :=
  ∀ x y s,
    (WordsOf (.ldReg x y) 0xF00F 0x8000 (fun op => fieldX op = x ∧ fieldY op = y) ∧
      ∃ t, exec (.ldReg x y) s = .next t ∧ t.pc = s.pc + 2 ∧
        (∀ q, t.getV q = if q = x then s.getV y else s.getV q) ∧ OnlyChanges [.regs] s t) ∧
    (WordsOf (.orReg x y) 0xF00F 0x8001 (fun op => fieldX op = x ∧ fieldY op = y) ∧
      ∃ t, exec (.orReg x y) s = .next t ∧ t.pc = s.pc + 2 ∧
        (∀ q, t.getV q = if q = x then s.getV x ||| s.getV y else s.getV q) ∧
        OnlyChanges [.regs] s t) ∧
    (WordsOf (.andReg x y) 0xF00F 0x8002 (fun op => fieldX op = x ∧ fieldY op = y) ∧
      ∃ t, exec (.andReg x y) s = .next t ∧ t.pc = s.pc + 2 ∧
        (∀ q, t.getV q = if q = x then s.getV x &&& s.getV y else s.getV q) ∧
        OnlyChanges [.regs] s t) ∧
    (WordsOf (.xorReg x y) 0xF00F 0x8003 (fun op => fieldX op = x ∧ fieldY op = y) ∧
      ∃ t, exec (.xorReg x y) s = .next t ∧ t.pc = s.pc + 2 ∧
        (∀ q, t.getV q = if q = x then s.getV x ^^^ s.getV y else s.getV q) ∧
        OnlyChanges [.regs] s t)

/-- 43_alu.md R165: VF is the carry, also when x = 15, where the sum is lost. VF = 0 without a carry is the
spec's own decision D7, the flag written last its decision D9 (R160). -/
def Obligations.AddSetsCarry : Prop :=
  ∀ x y s,
    WordsOf (.addReg x y) 0xF00F 0x8004 (fun op => fieldX op = x ∧ fieldY op = y) ∧
    ∃ t, exec (.addReg x y) s = .next t ∧ t.pc = s.pc + 2 ∧
      (∀ q, (t.getV q).toNat =
        if q = 15 then (if (s.getV x).toNat + (s.getV y).toNat > 255 then 1 else 0)
        else if q = x then ((s.getV x).toNat + (s.getV y).toNat) % 256 else (s.getV q).toNat) ∧
      OnlyChanges [.regs] s t

/-- 43_alu.md R166: VF is 1 when there is no borrow, the spec's own decision D7; that the low nibble 5 is SUB
is its decision D6, the flag written last its decision D9 (R160). -/
def Obligations.SubtractSetsNotBorrow : Prop :=
  ∀ x y s,
    WordsOf (.sub x y) 0xF00F 0x8005 (fun op => fieldX op = x ∧ fieldY op = y) ∧
    ∃ t, exec (.sub x y) s = .next t ∧ t.pc = s.pc + 2 ∧
      (∀ q, (t.getV q).toNat =
        if q = 15 then (if (s.getV x).toNat ≥ (s.getV y).toNat then 1 else 0)
        else if q = x then ((s.getV x).toNat + 256 - (s.getV y).toNat) % 256
        else (s.getV q).toNat) ∧
      OnlyChanges [.regs] s t

/-- 43_alu.md R167: a logical shift of `V[x]`; VF is the bit shifted out. With SHIFT_SOURCE = Vy the
operand would be `V[y]`. That the low nibble 6 is SHR, the flag, the source and the flag written last are the
spec's own decisions D6, D7, D8 and D9. -/
def Obligations.ShiftRightSetsOldBitZero : Prop :=
  ∀ x y s,
    WordsOf (.shr x y) 0xF00F 0x8006 (fun op => fieldX op = x ∧ fieldY op = y) ∧
    shiftOperand .vx x y s = s.getV x ∧ shiftOperand .vy x y s = s.getV y ∧
    ∃ t, exec (.shr x y) s = .next t ∧ t.pc = s.pc + 2 ∧
      (∀ q, (t.getV q).toNat =
        if q = 15 then (s.getV x).toNat % 2
        else if q = x then (s.getV x).toNat / 2 else (s.getV q).toNat) ∧
      OnlyChanges [.regs] s t

/-- 43_alu.md R168: the reverse subtract; that the low nibble 7 is SUBN is the spec's own decision D6, its
flag its decision D7, the flag written last its decision D9 (R160). -/
def Obligations.ReverseSubtractSetsNotBorrow : Prop :=
  ∀ x y s,
    WordsOf (.subn x y) 0xF00F 0x8007 (fun op => fieldX op = x ∧ fieldY op = y) ∧
    ∃ t, exec (.subn x y) s = .next t ∧ t.pc = s.pc + 2 ∧
      (∀ q, (t.getV q).toNat =
        if q = 15 then (if (s.getV y).toNat ≥ (s.getV x).toNat then 1 else 0)
        else if q = x then ((s.getV y).toNat + 256 - (s.getV x).toNat) % 256
        else (s.getV q).toNat) ∧
      OnlyChanges [.regs] s t

/-- 43_alu.md R169: the left shift; VF is the old bit 7. The flag, the source and the flag written last are
the spec's own decisions D7, D8 and D9. -/
def Obligations.ShiftLeftSetsOldBitSeven : Prop :=
  ∀ x y s,
    WordsOf (.shl x y) 0xF00F 0x800E (fun op => fieldX op = x ∧ fieldY op = y) ∧
    shiftOperand .vx x y s = s.getV x ∧ shiftOperand .vy x y s = s.getV y ∧
    ∃ t, exec (.shl x y) s = .next t ∧ t.pc = s.pc + 2 ∧
      (∀ q, (t.getV q).toNat =
        if q = 15 then (s.getV x).toNat / 128
        else if q = x then (s.getV x).toNat * 2 % 256 else (s.getV q).toNat) ∧
      OnlyChanges [.regs] s t

/-! ### Display -/

/-- 45_display.md R180: also when the framebuffer was clear. -/
def Obligations.ClearBlanksAndRaisesRedraw : Prop :=
  ∀ s,
    WordsOf .cls 0xFFFF 0x00E0 (fun _ => True) ∧
    ∃ t, exec .cls s = .next t ∧ t.pc = s.pc + 2 ∧ (∀ k, t.fb.pixel k = false) ∧
      t.redraw = true ∧ OnlyChanges [.framebuffer, .redraw] s t

/-- 45_display.md R181: every pixel, VF, REDRAW and the frame of a draw whose n bytes lie in memory, and
the fault of one whose bytes do not. Which bit and which register is which coordinate is the spec's own
decision D10, the fault its decisions D1 and D3, the exact sum that is checked its decision D22. -/
def Obligations.DrawXorsTheSprite : Prop :=
  ∀ (x y : Reg) (n : Nat) (s : State), n < 16 →
    WordsOf (.drw x y n) 0xF000 0xD000
      (fun op => fieldX op = x ∧ fieldY op = y ∧ (fieldN op).toNat = n) ∧
    ((n = 0 ∨ s.i.toNat + n ≤ 0x1000) →
      ∃ t, exec (.drw x y n) s = .next t ∧ t.pc = s.pc + 2 ∧ t.redraw = true ∧
        (∀ row col, row < 32 → col < 64 →
          (SpriteAt s x y n row col →
            t.fb.pixel (row * 64 + col) = !s.fb.pixel (row * 64 + col)) ∧
          (¬SpriteAt s x y n row col →
            t.fb.pixel (row * 64 + col) = s.fb.pixel (row * 64 + col))) ∧
        (t.getV 15 = 0 ∨ t.getV 15 = 1) ∧
        (t.getV 15 = 1 ↔ ∃ row col, row < 32 ∧ col < 64 ∧ SpriteAt s x y n row col ∧
          s.fb.pixel (row * 64 + col) = true) ∧
        (∀ q, q ≠ 15 → t.getV q = s.getV q) ∧
        OnlyChanges [.regs, .framebuffer, .redraw] s t) ∧
    (n ≠ 0 → 0x1000 < s.i.toNat + n →
      exec (.drw x y n) s =
        .next { s with run := .faulted (.addressError (max s.i.toNat 0x1000) .read s.pc) })

/-- 45_display.md R183, which the spec derives from R181: the same draw twice restores the framebuffer,
and VF is that of the second draw, provided the first did not change a coordinate it reads from VF. -/
def Obligations.DrawingTwiceRestores : Prop :=
  ∀ (x y : Reg) (n : Nat) (s : State), n < 16 → (n = 0 ∨ s.i.toNat + n ≤ 0x1000) →
    ∃ t, exec (.drw x y n) s = .next t ∧
      ((x = 15 ∨ y = 15 → t.getV 15 = s.getV 15) →
        ∃ u, exec (.drw x y n) t = .next u ∧ u.fb = s.fb ∧
          (u.getV 15 = 0 ∨ u.getV 15 = 1) ∧
          (u.getV 15 = 1 ↔ ∃ row col, row < 32 ∧ col < 64 ∧ SpriteAt s x y n row col ∧
            s.fb.pixel (row * 64 + col) = false))

/-! ### Keypad -/

/-- 46_keypad.md R190 and R191: the key tests, and their fault above 15, which is the spec's own decision
D5; with KEY_INDEX_POLICY = low_nibble the key would be that of the low nibble. -/
def Obligations.KeyTestsSkip : Prop :=
  ∀ (x : Reg) (s : State),
    WordsOf (.skp x) 0xF0FF 0xE09E (fun op => fieldX op = x) ∧
    WordsOf (.sknp x) 0xF0FF 0xE0A1 (fun op => fieldX op = x) ∧
    (∀ k : Reg, (s.getV x).toNat = k.val →
      (∃ t, exec (.skp x) s = .next t ∧
        t.pc = (if s.keyPressed k = true then s.pc + 4 else s.pc + 2) ∧ OnlyChanges [] s t) ∧
      (∃ t, exec (.sknp x) s = .next t ∧
        t.pc = (if s.keyPressed k = false then s.pc + 4 else s.pc + 2) ∧ OnlyChanges [] s t)) ∧
    (15 < (s.getV x).toNat →
      exec (.skp x) s = .next { s with run := .faulted (.keyIndexError (s.getV x) s.pc) } ∧
      exec (.sknp x) s = .next { s with run := .faulted (.keyIndexError (s.getV x) s.pc) }) ∧
    (∀ b : Byte, ∃ k, keyNumber .lowNibble b = some k ∧ k.val = b.toNat % 16)

/-- 46_keypad.md R192: the wait begins and PC advances at once; no register is written. That a key held
down does not end the wait is the spec's own decision D24. -/
def Obligations.WaitForKeyBegins : Prop :=
  ∀ x s,
    WordsOf (.ldVxK x) 0xF0FF 0xF00A (fun op => fieldX op = x) ∧
    ∃ t, exec (.ldVxK x) s = .next t ∧ t.run = .awaitingKey x ∧ t.pc = s.pc + 2 ∧
      OnlyChanges [.run] s t

/-! ### Timers -/

/-- 47_timers.md R200, R201 and R202. -/
def Obligations.TimerTransfers : Prop :=
  ∀ x s,
    (WordsOf (.ldVxDt x) 0xF0FF 0xF007 (fun op => fieldX op = x) ∧
      ∃ t, exec (.ldVxDt x) s = .next t ∧ t.pc = s.pc + 2 ∧
        (∀ q, t.getV q = if q = x then s.dt else s.getV q) ∧ OnlyChanges [.regs] s t) ∧
    (WordsOf (.ldDtVx x) 0xF0FF 0xF015 (fun op => fieldX op = x) ∧
      ∃ t, exec (.ldDtVx x) s = .next t ∧ t.pc = s.pc + 2 ∧ t.dt = s.getV x ∧
        OnlyChanges [.delay] s t) ∧
    (WordsOf (.ldStVx x) 0xF0FF 0xF018 (fun op => fieldX op = x) ∧
      ∃ t, exec (.ldStVx x) s = .next t ∧ t.pc = s.pc + 2 ∧ t.st = s.getV x ∧
        OnlyChanges [.sound] s t)

/-! ### Index register and memory transfer -/

/-- 48_index_memory.md R210, with FX1E_LIMIT = 0x00FF, the spec's own decision D20 (log entry 3): `V[x]` is
read before VF is written. That I wraps modulo 2^16 is its decision D22 (10_state.md R23). -/
def Obligations.AddToIndexSetsFlag : Prop :=
  ∀ x s,
    WordsOf (.addI x) 0xF0FF 0xF01E (fun op => fieldX op = x) ∧
    ∃ t, exec (.addI x) s = .next t ∧ t.pc = s.pc + 2 ∧
      t.i.toNat = (s.i.toNat + (s.getV x).toNat) % 65536 ∧
      (∀ q, (t.getV q).toNat =
        if q = 15 then (if s.i.toNat + (s.getV x).toNat > 0x00FF then 1 else 0)
        else (s.getV q).toNat) ∧
      OnlyChanges [.regs, .index] s t

/-- 48_index_memory.md R211: the whole `V[x]` times 5. -/
def Obligations.LoadGlyphAddress : Prop :=
  ∀ x s,
    WordsOf (.ldF x) 0xF0FF 0xF029 (fun op => fieldX op = x) ∧
    ∃ t, exec (.ldF x) s = .next t ∧ t.pc = s.pc + 2 ∧ t.i.toNat = 5 * (s.getV x).toNat ∧
      OnlyChanges [.index] s t

/-- 48_index_memory.md R212: the digits at I, I + 1, I + 2, every other byte as before; the ways an
address fails. The faults are the spec's own decisions D1, D2 and D3, the exact sum that is
checked its decision D22. -/
def Obligations.StoreDecimalDigits : Prop :=
  ∀ x s,
    WordsOf (.ldB x) 0xF0FF 0xF033 (fun op => fieldX op = x) ∧
    (0x050 ≤ s.i.toNat → s.i.toNat + 2 ≤ 0xFFF →
      ∃ t, exec (.ldB x) s = .next t ∧ t.pc = s.pc + 2 ∧
        (t.byteAt s.i.toNat).toNat = (s.getV x).toNat / 100 ∧
        (t.byteAt (s.i.toNat + 1)).toNat = (s.getV x).toNat / 10 % 10 ∧
        (t.byteAt (s.i.toNat + 2)).toNat = (s.getV x).toNat % 10 ∧
        (∀ a, a < s.i.toNat ∨ s.i.toNat + 2 < a → t.byteAt a = s.byteAt a) ∧
        OnlyChanges [.memory] s t) ∧
    (s.i.toNat ≤ 0x04F → exec (.ldB x) s =
      .next { s with run := .faulted (.addressError s.i.toNat .fontWrite s.pc) }) ∧
    (0xFFF < s.i.toNat + 2 → exec (.ldB x) s =
      .next { s with run := .faulted (.addressError (max s.i.toNat 0x1000) .write s.pc) })

/-- 48_index_memory.md R213: `V[0]` to `V[x]` at I, every other byte as before, I past them; the ways an
address fails. The faults are the spec's own decisions D1, D2 and D3, the exact sum that is
checked its decision D22. -/
def Obligations.StoreRegisters : Prop :=
  ∀ (x : Reg) (s : State),
    WordsOf (.stRegs x) 0xF0FF 0xF055 (fun op => fieldX op = x) ∧
    (0x050 ≤ s.i.toNat → s.i.toNat + x.val ≤ 0xFFF →
      ∃ t, exec (.stRegs x) s = .next t ∧ t.pc = s.pc + 2 ∧
        t.i.toNat = (s.i.toNat + x.val + 1) % 65536 ∧
        (∀ k : Reg, k ≤ x → t.byteAt (s.i.toNat + k.val) = s.getV k) ∧
        (∀ a, a < s.i.toNat ∨ s.i.toNat + x.val < a → t.byteAt a = s.byteAt a) ∧
        OnlyChanges [.memory, .index] s t) ∧
    (s.i.toNat ≤ 0x04F → exec (.stRegs x) s =
      .next { s with run := .faulted (.addressError s.i.toNat .fontWrite s.pc) }) ∧
    (0xFFF < s.i.toNat + x.val → exec (.stRegs x) s =
      .next { s with run := .faulted (.addressError (max s.i.toNat 0x1000) .write s.pc) })

/-- 48_index_memory.md R214: `V[0]` to `V[x]` from I, the other registers as before, I past them; the
fault before any register is written, which is the spec's own decisions D1 and D3, the exact sum that is
checked its decision D22. -/
def Obligations.LoadRegisters : Prop :=
  ∀ (x : Reg) (s : State),
    WordsOf (.ldRegs x) 0xF0FF 0xF065 (fun op => fieldX op = x) ∧
    (s.i.toNat + x.val ≤ 0xFFF →
      ∃ t, exec (.ldRegs x) s = .next t ∧ t.pc = s.pc + 2 ∧
        t.i.toNat = (s.i.toNat + x.val + 1) % 65536 ∧
        (∀ q : Reg, t.getV q = if q ≤ x then s.byteAt (s.i.toNat + q.val) else s.getV q) ∧
        OnlyChanges [.regs, .index] s t) ∧
    (0xFFF < s.i.toNat + x.val → exec (.ldRegs x) s =
      .next { s with run := .faulted (.addressError (max s.i.toNat 0x1000) .read s.pc) })

/-- 20_memory.md R73, which the spec derives from R71: the step right after an `Fx55` that stored over the
bytes PC now points at runs the instruction just stored. -/
def Obligations.NextFetchSeesTheStore : Prop :=
  ∀ (x k : Reg) (s : State) (i : Instr),
    s.run = .running → 0x050 ≤ s.i.toNat → s.i.toNat + x.val ≤ 0xFFF → k < x →
    s.pc.toNat + 2 = s.i.toNat + k.val →
    decodeWord (wordOfBytes (s.getV k) (s.getV (k + 1))) = some i →
    ∃ t, exec (.stRegs x) s = .next t ∧ step t = exec i t

/-! ### Faults -/

/-- 60_exceptions.md R228 and R224, the spec's own decision D3: a step that raises a fault changes RUN
alone, and the record holds PC; the core then stays as it is. -/
def Obligations.FaultsArePrecise : Prop :=
  ∀ (s t : State) (f : FaultRecord), s.run = .running → step s = .next t → t.run = .faulted f →
    t = { s with run := .faulted f } ∧ f.pc = s.pc ∧ step t = .next t

/-- 60_exceptions.md R227, the execute phase, the spec's own decision D23: which fault which instruction
can raise; the other 26 raise none. -/
def Obligations.EachInstructionRaisesItsOwnFault : Prop :=
  ∀ (i : Instr) (s t : State) (f : FaultRecord),
    s.run = .running → exec i s = .next t → t.run = .faulted f →
    (f = .stackOverflow s.pc ∧ ∃ nnn, i = .call nnn) ∨
    (f = .stackUnderflow s.pc ∧ i = .ret) ∨
    (∃ a, f = .addressError a .read s.pc ∧ ((∃ x y n, i = .drw x y n) ∨ ∃ x, i = .ldRegs x)) ∨
    (∃ a, (f = .addressError a .write s.pc ∨ f = .addressError a .fontWrite s.pc) ∧
      ((∃ x, i = .ldB x) ∨ ∃ x, i = .stRegs x)) ∨
    (∃ x, f = .keyIndexError (s.getV x) s.pc ∧ (i = .skp x ∨ i = .sknp x))

/-- Every record of a fault stays true: it names the instruction PC points at, and the condition that
60_exceptions.md R220 gives for it holds. What is recorded is the spec's own decision D4. -/
def Obligations.StepKeepsFaultRecordsTruthful : Prop :=
  ∀ s t : State, s.Truthful → step s = .next t → t.Truthful

/-- 10_state.md R34: what changes RUN, over the steps and the host operations; the state Faulted is the
spec's own decision D3. -/
def Obligations.RunStateTransitions : Prop :=
  (∀ (op : HostOp) (c c' : Session) (reply : HostReply),
    Session.apply op c = .next (c', reply) → c'.core.run ≠ c.core.run →
    (op = .step ∧ c.core.run = .running ∧
      ((∃ x, c'.core.run = .awaitingKey x ∧ decodeWord c.core.wordAtPc = some (.ldVxK x)) ∨
        ∃ f, c'.core.run = .faulted f)) ∨
    (∃ v r, op = .resolveKey v ∧ c.core.run = .awaitingKey r ∧ c'.core.run = .running) ∨
    (op = .reset ∧ c'.core.run = .running)) ∧
  (∀ s : State, s.run ≠ .running → step s = .next s)

/-! ### Whole-machine frames -/

/-- 10_state.md R35, the instructions: each part of the state is written by the listed ones alone; RUN by
`Fx0A` and by a fault. -/
def Obligations.OnlyTheListedInstructionsWrite : Prop :=
  ∀ (i : Instr) (s t : State) (p : Part), exec i s = .next t → writers p i = false →
    Unchanged s t p ∨ (p = .run ∧ ∃ f, t.run = .faulted f)

/-- 10_state.md R35, the host operations: what each may write; none but `step` and `reset` writes PC. -/
def Obligations.OnlyTheListedHostOpsWrite : Prop :=
  ∀ (op : HostOp) (c c' : Session) (reply : HostReply) (p : Part),
    Session.apply op c = .next (c', reply) → op ≠ .step → op ≠ .reset →
    c'.core.pc = c.core.pc ∧ (hostWriters p op = false → Unchanged c.core c'.core p)

/-- 10_state.md R39: an instruction that is not one of the seven leaves VF alone unless VF is its named
destination. -/
def Obligations.OnlyTheSevenWriteVf : Prop :=
  ∀ (i : Instr) (s t : State), exec i s = .next t → writesFlag i = false → namesFlag i = false →
    t.getV 15 = s.getV 15

/-- 10_state.md R32: KEY is read by `Ex9E` and `ExA1` only: any other instruction does the same whatever
the keys are. -/
def Obligations.OnlyKeyTestsReadKeys : Prop :=
  ∀ (i : Instr) (keys : Vector Bool 16) (s : State), (∀ x, i ≠ .skp x) → (∀ x, i ≠ .sknp x) →
    exec i (s.setKeys keys) = mapNext (fun t => t.setKeys keys) (exec i s)

/-- 10_state.md R28, R31: no instruction reads ST or REDRAW: two steps from states that differ there alone
end in states that differ there alone. -/
def Obligations.NothingReadsSoundOrRedraw : Prop :=
  ∀ (s : State) (b : Byte) (r : Bool), ∃ t t', step s = .next t ∧
    step ((s.setSt b).setRedraw r) = .next t' ∧
    (t'.setSt 0).setRedraw false = (t.setSt 0).setRedraw false

/-- 70_reset_and_hazards.md R279: at the end of a run every step leaves the whole state unchanged. What
the end of a run is, is the spec's own decision D25. -/
def Obligations.EndedRunIsAFixedPoint : Prop :=
  ∀ s : State, s.ended → step s = .next s

/-! ### Invariants -/

/-- Memory stays canonical (the model's own form of it), the font stays as reset left it (10_state.md R33;
20_memory.md R63, the spec's own decision D2), and PC and the return addresses keep their bounds
(40_sequencer_and_flow.md R131, the spec's own decision D22): every step keeps all of it. -/
def Obligations.StepKeepsTheInvariant : Prop :=
  ∀ s t : State, s.Inv → step s = .next t → t.Inv

/-- Every host operation that is not refused keeps it too. -/
def Obligations.HostOpsKeepTheInvariant : Prop :=
  ∀ (op : HostOp) (c c' : Session) (reply : HostReply),
    c.core.Inv → Session.apply op c = .next (c', reply) → c'.core.Inv

/-- The reset state has the invariants. -/
def Obligations.ResetHasTheInvariants : Prop := State.reset.Inv ∧ State.reset.Truthful

/-- 40_sequencer_and_flow.md R131, the spec's own decision D22: whatever the host does, PC never gets near
a wrap, so every sum with PC is the exact one. -/
def Obligations.ReachablePcNeverWraps : Prop :=
  ∀ c : Session, c.Reachable →
    c.core.Inv ∧ (c.core.pc + 4).toNat = c.core.pc.toNat + 4 ∧
    ∀ j : Fin 16, (c.core.stk.get j + 2).toNat = (c.core.stk.get j).toNat + 2

/-! ### Host operations -/

/-- 70_reset_and_hazards.md R260: reset, at any time, gives every element its reset value (at any time is
the spec's own decision D3). That the draws go on and that `load` is defined again are the model's choices,
log entries 1 and 8. -/
def Obligations.ResetRestoresEverything : Prop :=
  ∀ c : Session,
    Session.apply .reset c =
      .next (⟨{ State.reset with draws := c.core.draws }, true⟩, .done)

/-- 70_reset_and_hazards.md R263: where the bytes go, what else changes, and the two failures, of the
function and of the host operation in the boot window, which a success ends (R265, the spec's own decision
D18; a second `load` is refused: 93_implementation_defined.md U15). How the model keeps the window is log
entry 8. -/
def Obligations.LoadCopiesTheProgram : Prop :=
  ∀ (bytes : List Byte) (s : State),
    (bytes.length = 0 → load bytes s = .refused .loadEmptyProgram ∧
      Session.apply (.load bytes) ⟨s, true⟩ = .refused .loadEmptyProgram) ∧
    (0x200 + bytes.length > 4096 → load bytes s = .refused .loadProgramTooLarge ∧
      Session.apply (.load bytes) ⟨s, true⟩ = .refused .loadProgramTooLarge) ∧
    (1 ≤ bytes.length → bytes.length ≤ 3584 →
      ∃ t, load bytes s = .next t ∧
        Session.apply (.load bytes) ⟨s, true⟩ = .next (⟨t, false⟩, .done) ∧ t.pc = s.pc ∧
        (∀ k b, bytes[k]? = some b → t.byteAt (0x200 + k) = b) ∧
        (∀ a, a < 0x200 ∨ 0x200 + bytes.length ≤ a → t.byteAt a = s.byteAt a) ∧
        OnlyChanges [.memory] s t)

/-- 46_keypad.md R194 and R195: `set_key` and `resolve_key` in their domains; that `set_key` ends no wait is
the spec's own decision D24. -/
def Obligations.KeyOperations : Prop :=
  ∀ c : Session,
    (∀ (k : Reg) pressed,
      ∃ t, Session.apply (.setKey k.val pressed) c = .next (⟨t, c.loadable⟩, .done) ∧
        t.pc = c.core.pc ∧
        (∀ q, t.keyPressed q = if q = k then pressed else c.core.keyPressed q) ∧
        OnlyChanges [.keys] c.core t) ∧
    (∀ r value, c.core.run = .awaitingKey r → value ≤ 15 →
      ∃ t, Session.apply (.resolveKey value) c = .next (⟨t, c.loadable⟩, .done) ∧
        t.pc = c.core.pc ∧ t.run = .running ∧
        (∀ q, (t.getV q).toNat = if q = r then value else (c.core.getV q).toNat) ∧
        OnlyChanges [.regs, .run] c.core t)

/-- 47_timers.md R203, R204 and R205: ticks in every RUN state, clamped at zero; that there are three
operations is the spec's own decision D15. -/
def Obligations.TickOperations : Prop :=
  ∀ (n : Nat) (c : Session),
    (∃ t, Session.apply (.tickDelay n) c = .next (⟨t, c.loadable⟩, .done) ∧ t.pc = c.core.pc ∧
      t.dt.toNat = max 0 ((c.core.dt.toNat : Int) - n) ∧ OnlyChanges [.delay] c.core t) ∧
    (∃ t, Session.apply (.tickSound n) c = .next (⟨t, c.loadable⟩, .done) ∧ t.pc = c.core.pc ∧
      t.st.toNat = max 0 ((c.core.st.toNat : Int) - n) ∧ OnlyChanges [.sound] c.core t) ∧
    (∃ t, Session.apply (.tickTimers n) c = .next (⟨t, c.loadable⟩, .done) ∧ t.pc = c.core.pc ∧
      t.dt.toNat = max 0 ((c.core.dt.toNat : Int) - n) ∧
      t.st.toNat = max 0 ((c.core.st.toNat : Int) - n) ∧
      OnlyChanges [.delay, .sound] c.core t)

/-- 45_display.md R185 and R186, the spec's own decision D12: the grid that is read, which changes
nothing, and the acknowledgement. -/
def Obligations.DisplayOperations : Prop :=
  ∀ c : Session,
    (∃ rows : List (List Bool),
      Session.apply .readFramebuffer c = .next (c, .pixels rows) ∧ rows.length = 32 ∧
      ∀ row, row < 32 → ∃ r, rows[row]? = some r ∧ r.length = 64 ∧
        ∀ col, col < 64 → r[col]? = some (c.core.fb.pixel (row * 64 + col))) ∧
    (∃ t, Session.apply .ackRedraw c = .next (⟨t, c.loadable⟩, .done) ∧ t.pc = c.core.pc ∧
      t.redraw = false ∧ OnlyChanges [.redraw] c.core t)

/-- 10_state.md R40, 46_keypad.md R196, 47_timers.md R207: what the host observes, with no change; two of
the three are the spec's own decisions D4 and D26. -/
def Obligations.ObserversReportAndChangeNothing : Prop :=
  ∀ c : Session,
    (∃ b, Session.apply .isAwaitingKey c = .next (c, .awaiting b) ∧
      (b = true ↔ ∃ r, c.core.run = .awaitingKey r)) ∧
    (∃ b, Session.apply .soundOn c = .next (c, .sound b) ∧ (b = true ↔ c.core.st ≠ 0)) ∧
    (∃ o, Session.apply .faultStatus c = .next (c, .status o) ∧
      ∀ f, o = some f ↔ c.core.run = .faulted f)

/-- 60_exceptions.md R244, the spec's own decision D16: calls outside the domain have no transition; for
`load` that is after the first step or a second time (93_implementation_defined.md U15). How the model keeps
the boot window is its own choice, log entry 8. -/
def Obligations.OutOfDomainCallsAreRefused : Prop :=
  ∀ c : Session,
    (∀ index pressed, 15 < index →
      Session.apply (.setKey index pressed) c = .refused (.setKeyIndex index)) ∧
    (∀ value, (∀ r, c.core.run ≠ .awaitingKey r) →
      Session.apply (.resolveKey value) c = .refused .resolveKeyNotAwaiting) ∧
    (∀ value r, c.core.run = .awaitingKey r → 15 < value →
      Session.apply (.resolveKey value) c = .refused (.resolveKeyValue value)) ∧
    (∀ bytes, c.loadable = false → Session.apply (.load bytes) c = .refused .loadOutsideBoot) ∧
    (∀ bytes, c.loadable = true → bytes.length = 0 ∨ 3584 < bytes.length →
      Session.apply (.load bytes) c = .refused .loadEmptyProgram ∨
      Session.apply (.load bytes) c = .refused .loadProgramTooLarge)

/-- 46_keypad.md R193, 60_exceptions.md R224 (the latter the spec's own decision D3): until the host
resolves the wait or resets, a stopped core keeps its PC, registers, memory and framebuffer, whatever else
the host does. -/
def Obligations.StoppedCoreWaitsForTheHost : Prop :=
  ∀ (ops : List HostOp) (c c' : Session),
    c.core.run ≠ .running → c.loadable = false →
    (∀ op ∈ ops, op ≠ .reset ∧ ∀ v, op ≠ .resolveKey v) →
    Session.applyAll ops c = .next c' →
    c'.core.pc = c.core.pc ∧ OnlyChanges [.keys, .delay, .sound, .redraw] c.core c'.core
end

