-- ==== Sys2Proof/Laws/Decode.lean ====
section
/-! SUPPORT. Laws/Decode.lean: the fields of a word and the words of the encoder as numbers, the fields of
an encoded word, a word built back from its fields, and the masks of the opcode table as conditions on
fields (30_encoding.md R91, R92). -/

namespace Sys2Proof

/-! ### As numbers -/

theorem fieldGroup_toNat (op : Word) : (fieldGroup op).toNat = op.toNat / 4096 := by
  have := op.isLt
  simp only [fieldGroup, BitVec.extractLsb'_toNat, Nat.shiftRight_eq_div_pow]
  omega

theorem fieldX_val (op : Word) : (fieldX op).val = op.toNat / 256 % 16 := by
  simp only [fieldX, BitVec.val_toFin, BitVec.extractLsb'_toNat, Nat.shiftRight_eq_div_pow]

theorem fieldY_val (op : Word) : (fieldY op).val = op.toNat / 16 % 16 := by
  simp only [fieldY, BitVec.val_toFin, BitVec.extractLsb'_toNat, Nat.shiftRight_eq_div_pow]

theorem fieldN_toNat (op : Word) : (fieldN op).toNat = op.toNat % 16 := by
  simp only [fieldN, BitVec.extractLsb'_toNat, Nat.shiftRight_zero]

theorem fieldKk_toNat (op : Word) : (fieldKk op).toNat = op.toNat % 256 := by
  simp only [fieldKk, BitVec.extractLsb'_toNat, Nat.shiftRight_zero]

theorem fieldNnn_toNat (op : Word) : (fieldNnn op).toNat = op.toNat % 4096 := by
  simp only [fieldNnn, BitVec.extractLsb'_toNat, Nat.shiftRight_zero]

theorem nibble_toNat (r : Reg) : (nibble r).toNat = r.val := by
  have := r.isLt
  simp only [nibble, BitVec.toNat_ofNat]
  omega

theorem toNat_append_add {n m : Nat} (a : BitVec n) (b : BitVec m) :
    (a ++ b).toNat = a.toNat * 2 ^ m + b.toNat := by
  rw [BitVec.toNat_append, ← Nat.shiftLeft_add_eq_or_of_lt b.isLt, Nat.shiftLeft_eq]

theorem encodeNnn_toNat (g : BitVec 4) (nnn : BitVec 12) :
    (encodeNnn g nnn).toNat = g.toNat * 4096 + nnn.toNat := toNat_append_add g nnn

theorem encodeXkk_toNat (g : BitVec 4) (x : Reg) (kk : Byte) :
    (encodeXkk g x kk).toNat = g.toNat * 4096 + (x.val * 256 + kk.toNat) := by
  rw [← nibble_toNat x]
  exact (toNat_append_add g (nibble x ++ kk)).trans (by rw [toNat_append_add]; norm_num)

theorem encodeXyn_toNat (g : BitVec 4) (x y : Reg) (n : BitVec 4) :
    (encodeXyn g x y n).toNat = g.toNat * 4096 + (x.val * 256 + (y.val * 16 + n.toNat)) := by
  rw [← nibble_toNat x, ← nibble_toNat y]
  refine (toNat_append_add g (nibble x ++ (nibble y ++ n))).trans ?_
  rw [toNat_append_add, toNat_append_add]
  norm_num

theorem wordOfBytes_toNat (hi lo : Byte) : (wordOfBytes hi lo).toNat = hi.toNat * 256 + lo.toNat :=
  toNat_append_add hi lo

/-! ### Fields of an encoded word -/

@[simp] theorem fieldGroup_encodeNnn (g : BitVec 4) (nnn : BitVec 12) :
    fieldGroup (encodeNnn g nnn) = g := by
  have := nnn.isLt
  apply BitVec.eq_of_toNat_eq
  rw [fieldGroup_toNat, encodeNnn_toNat]
  omega

@[simp] theorem fieldNnn_encodeNnn (g : BitVec 4) (nnn : BitVec 12) :
    fieldNnn (encodeNnn g nnn) = nnn := by
  have := nnn.isLt
  apply BitVec.eq_of_toNat_eq
  rw [fieldNnn_toNat, encodeNnn_toNat]
  omega

@[simp] theorem fieldGroup_encodeXkk (g : BitVec 4) (x : Reg) (kk : Byte) :
    fieldGroup (encodeXkk g x kk) = g := by
  have := x.isLt
  have := kk.isLt
  apply BitVec.eq_of_toNat_eq
  rw [fieldGroup_toNat, encodeXkk_toNat]
  omega

@[simp] theorem fieldX_encodeXkk (g : BitVec 4) (x : Reg) (kk : Byte) :
    fieldX (encodeXkk g x kk) = x := by
  have := x.isLt
  have := kk.isLt
  apply Fin.ext
  rw [fieldX_val, encodeXkk_toNat]
  omega

@[simp] theorem fieldKk_encodeXkk (g : BitVec 4) (x : Reg) (kk : Byte) :
    fieldKk (encodeXkk g x kk) = kk := by
  have := kk.isLt
  apply BitVec.eq_of_toNat_eq
  rw [fieldKk_toNat, encodeXkk_toNat]
  omega

@[simp] theorem fieldGroup_encodeXyn (g : BitVec 4) (x y : Reg) (n : BitVec 4) :
    fieldGroup (encodeXyn g x y n) = g := by
  have := x.isLt
  have := y.isLt
  have := n.isLt
  apply BitVec.eq_of_toNat_eq
  rw [fieldGroup_toNat, encodeXyn_toNat]
  omega

@[simp] theorem fieldX_encodeXyn (g : BitVec 4) (x y : Reg) (n : BitVec 4) :
    fieldX (encodeXyn g x y n) = x := by
  have := x.isLt
  have := y.isLt
  have := n.isLt
  apply Fin.ext
  rw [fieldX_val, encodeXyn_toNat]
  omega

@[simp] theorem fieldY_encodeXyn (g : BitVec 4) (x y : Reg) (n : BitVec 4) :
    fieldY (encodeXyn g x y n) = y := by
  have := y.isLt
  have := n.isLt
  apply Fin.ext
  rw [fieldY_val, encodeXyn_toNat]
  omega

@[simp] theorem fieldN_encodeXyn (g : BitVec 4) (x y : Reg) (n : BitVec 4) :
    fieldN (encodeXyn g x y n) = n := by
  have := n.isLt
  apply BitVec.eq_of_toNat_eq
  rw [fieldN_toNat, encodeXyn_toNat]
  omega

/-! ### A word from its fields -/

theorem encodeNnn_fields (op : Word) : encodeNnn (fieldGroup op) (fieldNnn op) = op := by
  apply BitVec.eq_of_toNat_eq
  rw [encodeNnn_toNat, fieldGroup_toNat, fieldNnn_toNat]
  omega

theorem encodeXkk_fields (op : Word) : encodeXkk (fieldGroup op) (fieldX op) (fieldKk op) = op := by
  apply BitVec.eq_of_toNat_eq
  rw [encodeXkk_toNat, fieldGroup_toNat, fieldX_val, fieldKk_toNat]
  omega

theorem encodeXyn_fields (op : Word) :
    encodeXyn (fieldGroup op) (fieldX op) (fieldY op) (fieldN op) = op := by
  apply BitVec.eq_of_toNat_eq
  rw [encodeXyn_toNat, fieldGroup_toNat, fieldX_val, fieldY_val, fieldN_toNat]
  omega

/-! ### The masks of the opcode table -/

/-- Mask 0xF000 (formats NNN, XKK, XYN): the group. -/
theorem and_F000 (op : Word) : op &&& 0xF000 = encodeNnn (fieldGroup op) 0 := by
  conv => lhs; rw [← encodeNnn_fields op]
  have : (0xF000 : Word) = encodeNnn 0xF 0 := by decide
  rw [this]
  refine BitVec.and_append.trans ?_
  congr 1
  · exact BitVec.and_allOnes
  · exact BitVec.and_zero

/-- Mask 0xF0FF (format X): the group and the low byte. -/
theorem and_F0FF (op : Word) : op &&& 0xF0FF = encodeXkk (fieldGroup op) 0 (fieldKk op) := by
  conv => lhs; rw [← encodeXkk_fields op]
  have : (0xF0FF : Word) = encodeXkk 0xF 0 0xFF := by decide
  rw [this]
  refine BitVec.and_append.trans ?_
  congr 1
  · exact BitVec.and_allOnes
  · refine BitVec.and_append.trans ?_
    congr 1
    · exact BitVec.and_zero
    · exact BitVec.and_allOnes

/-- Mask 0xF00F (format XY): the group and the low nibble. -/
theorem and_F00F (op : Word) : op &&& 0xF00F = encodeXyn (fieldGroup op) 0 0 (fieldN op) := by
  conv => lhs; rw [← encodeXyn_fields op]
  have : (0xF00F : Word) = encodeXyn 0xF 0 0 0xF := by decide
  rw [this]
  refine BitVec.and_append.trans ?_
  congr 1
  · exact BitVec.and_allOnes
  · refine BitVec.and_append.trans ?_
    congr 1
    · exact BitVec.and_zero
    · refine BitVec.and_append.trans ?_
      congr 1
      · exact BitVec.and_zero
      · exact BitVec.and_allOnes

/-- Mask 0xFFFF (format NONE): the whole word. -/
theorem and_FFFF (op : Word) : op &&& 0xFFFF = op := BitVec.and_allOnes

end Sys2Proof
end

