-- ==== Sys2Proof/Laws/Memory.lean ====
section
/-! SUPPORT. Laws/Memory.lean: memory reads what was last written, and every memory operation keeps the
canonical form. -/

namespace Sys2Proof.Machine

/-! ### Read after write -/

theorem Memory.byteAt_filter_ne (m : Memory) (a b : Nat) (h : b ≠ a) :
    Memory.byteAt (m.filter (fun c => decide (c.1 ≠ a))) b = m.byteAt b := by
  induction m with
  | nil => rfl
  | cons c m ih =>
    obtain ⟨k, w⟩ := c
    by_cases hk : k = a
    · simp [hk, Memory.byteAt, h] at ih ⊢
      exact ih
    · simp [hk, Memory.byteAt] at ih ⊢
      rw [ih]

theorem Memory.byteAt_filter_self (m : Memory) (a : Nat) :
    Memory.byteAt (m.filter (fun c => decide (c.1 ≠ a))) a = unlisted a := by
  induction m with
  | nil => rfl
  | cons c m ih =>
    obtain ⟨k, w⟩ := c
    by_cases hk : k = a
    · simpa [hk] using ih
    · simpa [hk, Memory.byteAt, Ne.symm hk] using ih

theorem Memory.byteAt_insert_ne (m : Memory) (a b : Nat) (v : Byte) (h : b ≠ a) :
    (m.insert a v).byteAt b = m.byteAt b := by
  induction m with
  | nil => simp [Memory.insert, Memory.byteAt, h]
  | cons c m ih =>
    obtain ⟨k, w⟩ := c
    simp only [Memory.insert]
    split
    · simp [Memory.byteAt, h]
    · simp [Memory.byteAt, ih]

theorem Memory.byteAt_insert_self (m : Memory) (a : Nat) (v : Byte) (h : ∀ c ∈ m, c.1 ≠ a) :
    (m.insert a v).byteAt a = v := by
  induction m with
  | nil => simp [Memory.insert, Memory.byteAt]
  | cons c m ih =>
    obtain ⟨k, w⟩ := c
    have hk : k ≠ a := h (k, w) (by simp)
    simp only [Memory.insert]
    split
    · simp [Memory.byteAt]
    · simp [Memory.byteAt, Ne.symm hk, ih fun c hc => h c (by simp [hc])]

/-- A read gives the latest write to that address (20_memory.md R71), in every memory. -/
theorem Memory.byteAt_store (m : Memory) (a b : Nat) (v : Byte) :
    (m.store a v).byteAt b = if b = a then v else m.byteAt b := by
  have hne : ∀ c ∈ m.filter (fun c => decide (c.1 ≠ a)), c.1 ≠ a := by simp
  unfold Memory.store
  by_cases hb : b = a
  · subst hb
    simp only [if_true]
    split
    · rename_i hv
      rw [Memory.byteAt_filter_self, hv]
    · exact Memory.byteAt_insert_self _ _ _ hne
  · simp only [hb, if_false]
    split
    · exact Memory.byteAt_filter_ne m a b hb
    · rw [Memory.byteAt_insert_ne _ _ _ _ hb, Memory.byteAt_filter_ne m a b hb]

/-- What a run of writes leaves (20_memory.md R65): byte k of the list at a + k. -/
theorem Memory.byteAt_storeRun (m : Memory) (a b : Nat) (bs : List Byte) :
    (Memory.storeRun .fault m a bs).byteAt b =
      if h : a ≤ b ∧ b < a + bs.length then bs[b - a] else m.byteAt b := by
  induction bs generalizing m a with
  | nil =>
    have : ¬(a ≤ b ∧ b < a + ([] : List Byte).length) := by simp
    rw [dif_neg this]
    rfl
  | cons v bs ih =>
    simp only [Memory.storeRun, cellOf]
    rw [ih, Memory.byteAt_store]
    by_cases hb : b = a
    · subst hb
      simp
    · by_cases hin : a + 1 ≤ b ∧ b < a + 1 + bs.length
      · have hin' : a ≤ b ∧ b < a + (v :: bs).length := by simp; omega
        rw [dif_pos hin, dif_pos hin']
        have : b - a = (b - (a + 1)) + 1 := by omega
        simp [this]
      · have hin' : ¬(a ≤ b ∧ b < a + (v :: bs).length) := by simp; omega
        rw [dif_neg hin, dif_neg hin', if_neg hb]

/-! ### The canonical form -/

theorem Memory.wfFrom_mono {lo hi : Nat} (h : lo ≤ hi) {m : Memory} (hm : Memory.wfFrom hi m = true) :
    Memory.wfFrom lo m = true := by
  cases m with
  | nil => rfl
  | cons c m =>
    simp only [Memory.wfFrom, Bool.and_eq_true, decide_eq_true_eq] at hm ⊢
    exact ⟨⟨⟨by omega, hm.1.1.2⟩, hm.1.2⟩, hm.2⟩

theorem Memory.wfFrom_filter (p : Host.Cell → Bool) {lo : Nat} {m : Memory}
    (hm : Memory.wfFrom lo m = true) : Memory.wfFrom lo (m.filter p) = true := by
  induction m generalizing lo with
  | nil => rfl
  | cons c m ih =>
    obtain ⟨k, w⟩ := c
    simp only [Memory.wfFrom, Bool.and_eq_true, decide_eq_true_eq] at hm
    cases hp : p (k, w)
    · rw [List.filter_cons_of_neg (by simp [hp])]
      exact Memory.wfFrom_mono (by omega) (ih hm.2)
    · rw [List.filter_cons_of_pos hp]
      simp only [Memory.wfFrom, Bool.and_eq_true, decide_eq_true_eq]
      exact ⟨hm.1, ih hm.2⟩

theorem Memory.wfFrom_insert {lo : Nat} {m : Memory} {a : Nat} {v : Byte}
    (hm : Memory.wfFrom lo m = true) (hne : ∀ c ∈ m, c.1 ≠ a) (hlo : lo ≤ a)
    (ha : a < Params.memSize) (hv : v ≠ unlisted a) : Memory.wfFrom lo (m.insert a v) = true := by
  induction m generalizing lo with
  | nil => simp [Memory.insert, Memory.wfFrom, hlo, ha, hv]
  | cons c m ih =>
    obtain ⟨k, w⟩ := c
    have hk : k ≠ a := hne (k, w) (by simp)
    simp only [Memory.wfFrom, Bool.and_eq_true, decide_eq_true_eq] at hm
    simp only [Memory.insert]
    split
    · simp only [Memory.wfFrom, Bool.and_eq_true, decide_eq_true_eq]
      exact ⟨⟨⟨hlo, ha⟩, hv⟩, ⟨⟨by omega, hm.1.1.2⟩, hm.1.2⟩, hm.2⟩
    · simp only [Memory.wfFrom, Bool.and_eq_true, decide_eq_true_eq]
      exact ⟨hm.1, ih hm.2 (fun c hc => hne c (by simp [hc])) (by omega)⟩

/-- A write below 4096 keeps the canonical form. -/
theorem Memory.wf_store {m : Memory} {a : Nat} (v : Byte) (hm : m.wf = true) (ha : a < Params.memSize) :
    (m.store a v).wf = true := by
  unfold Memory.wf at hm ⊢
  unfold Memory.store
  split
  · exact Memory.wfFrom_filter _ hm
  · rename_i hv
    exact Memory.wfFrom_insert (Memory.wfFrom_filter _ hm) (by simp) (Nat.zero_le _) ha hv

/-- A run of writes below 4096 keeps the canonical form. -/
theorem Memory.wf_storeRun {m : Memory} {a : Nat} {bs : List Byte} (hm : m.wf = true)
    (ha : a + bs.length ≤ Params.memSize) : (Memory.storeRun .fault m a bs).wf = true := by
  induction bs generalizing m a with
  | nil => exact hm
  | cons v bs ih =>
    simp only [List.length_cons] at ha
    exact ih (Memory.wf_store v hm (by simp only [cellOf]; omega)) (by omega)

/-- The memory of the reset state is canonical. -/
theorem Memory.wf_reset : State.reset.mem.wf = true := rfl

end Sys2Proof.Machine
end

