-- ==== Sys2Proof/Laws/State.lean ====
section
/-! SUPPORT. Laws/State.lean: what each named update does to each field, and what the accessors read
after it, so that no proof unfolds a record update. -/

namespace Sys2Proof.Machine

variable (s : State)

/-! ### setV -/

@[simp] theorem State.setV_v (r : Reg) (b : Byte) : (s.setV r b).v = s.v.set r.val b r.isLt := rfl
@[simp] theorem State.setV_i (r : Reg) (b : Byte) : (s.setV r b).i = s.i := rfl
@[simp] theorem State.setV_pc (r : Reg) (b : Byte) : (s.setV r b).pc = s.pc := rfl
@[simp] theorem State.setV_stk (r : Reg) (b : Byte) : (s.setV r b).stk = s.stk := rfl
@[simp] theorem State.setV_sp (r : Reg) (b : Byte) : (s.setV r b).sp = s.sp := rfl
@[simp] theorem State.setV_dt (r : Reg) (b : Byte) : (s.setV r b).dt = s.dt := rfl
@[simp] theorem State.setV_st (r : Reg) (b : Byte) : (s.setV r b).st = s.st := rfl
@[simp] theorem State.setV_mem (r : Reg) (b : Byte) : (s.setV r b).mem = s.mem := rfl
@[simp] theorem State.setV_fb (r : Reg) (b : Byte) : (s.setV r b).fb = s.fb := rfl
@[simp] theorem State.setV_redraw (r : Reg) (b : Byte) : (s.setV r b).redraw = s.redraw := rfl
@[simp] theorem State.setV_keys (r : Reg) (b : Byte) : (s.setV r b).keys = s.keys := rfl
@[simp] theorem State.setV_run (r : Reg) (b : Byte) : (s.setV r b).run = s.run := rfl
@[simp] theorem State.setV_draws (r : Reg) (b : Byte) : (s.setV r b).draws = s.draws := rfl
@[simp] theorem State.byteAt_setV (r : Reg) (b : Byte) (a : Nat) : (s.setV r b).byteAt a = s.byteAt a := rfl
@[simp] theorem State.keyPressed_setV (r : Reg) (b : Byte) (q : Reg) : (s.setV r b).keyPressed q = s.keyPressed q := rfl

/-! ### setRegs -/

@[simp] theorem State.setRegs_v (x : Vector Byte 16) : (s.setRegs x).v = x := rfl
@[simp] theorem State.setRegs_i (x : Vector Byte 16) : (s.setRegs x).i = s.i := rfl
@[simp] theorem State.setRegs_pc (x : Vector Byte 16) : (s.setRegs x).pc = s.pc := rfl
@[simp] theorem State.setRegs_stk (x : Vector Byte 16) : (s.setRegs x).stk = s.stk := rfl
@[simp] theorem State.setRegs_sp (x : Vector Byte 16) : (s.setRegs x).sp = s.sp := rfl
@[simp] theorem State.setRegs_dt (x : Vector Byte 16) : (s.setRegs x).dt = s.dt := rfl
@[simp] theorem State.setRegs_st (x : Vector Byte 16) : (s.setRegs x).st = s.st := rfl
@[simp] theorem State.setRegs_mem (x : Vector Byte 16) : (s.setRegs x).mem = s.mem := rfl
@[simp] theorem State.setRegs_fb (x : Vector Byte 16) : (s.setRegs x).fb = s.fb := rfl
@[simp] theorem State.setRegs_redraw (x : Vector Byte 16) : (s.setRegs x).redraw = s.redraw := rfl
@[simp] theorem State.setRegs_keys (x : Vector Byte 16) : (s.setRegs x).keys = s.keys := rfl
@[simp] theorem State.setRegs_run (x : Vector Byte 16) : (s.setRegs x).run = s.run := rfl
@[simp] theorem State.setRegs_draws (x : Vector Byte 16) : (s.setRegs x).draws = s.draws := rfl
@[simp] theorem State.byteAt_setRegs (x : Vector Byte 16) (a : Nat) : (s.setRegs x).byteAt a = s.byteAt a := rfl
@[simp] theorem State.keyPressed_setRegs (x : Vector Byte 16) (q : Reg) : (s.setRegs x).keyPressed q = s.keyPressed q := rfl

/-! ### setI -/

@[simp] theorem State.setI_v (w : Word) : (s.setI w).v = s.v := rfl
@[simp] theorem State.setI_i (w : Word) : (s.setI w).i = w := rfl
@[simp] theorem State.setI_pc (w : Word) : (s.setI w).pc = s.pc := rfl
@[simp] theorem State.setI_stk (w : Word) : (s.setI w).stk = s.stk := rfl
@[simp] theorem State.setI_sp (w : Word) : (s.setI w).sp = s.sp := rfl
@[simp] theorem State.setI_dt (w : Word) : (s.setI w).dt = s.dt := rfl
@[simp] theorem State.setI_st (w : Word) : (s.setI w).st = s.st := rfl
@[simp] theorem State.setI_mem (w : Word) : (s.setI w).mem = s.mem := rfl
@[simp] theorem State.setI_fb (w : Word) : (s.setI w).fb = s.fb := rfl
@[simp] theorem State.setI_redraw (w : Word) : (s.setI w).redraw = s.redraw := rfl
@[simp] theorem State.setI_keys (w : Word) : (s.setI w).keys = s.keys := rfl
@[simp] theorem State.setI_run (w : Word) : (s.setI w).run = s.run := rfl
@[simp] theorem State.setI_draws (w : Word) : (s.setI w).draws = s.draws := rfl
@[simp] theorem State.getV_setI (w : Word) (q : Reg) : (s.setI w).getV q = s.getV q := rfl
@[simp] theorem State.byteAt_setI (w : Word) (a : Nat) : (s.setI w).byteAt a = s.byteAt a := rfl
@[simp] theorem State.keyPressed_setI (w : Word) (q : Reg) : (s.setI w).keyPressed q = s.keyPressed q := rfl

/-! ### setPc -/

@[simp] theorem State.setPc_v (w : Word) : (s.setPc w).v = s.v := rfl
@[simp] theorem State.setPc_i (w : Word) : (s.setPc w).i = s.i := rfl
@[simp] theorem State.setPc_pc (w : Word) : (s.setPc w).pc = w := rfl
@[simp] theorem State.setPc_stk (w : Word) : (s.setPc w).stk = s.stk := rfl
@[simp] theorem State.setPc_sp (w : Word) : (s.setPc w).sp = s.sp := rfl
@[simp] theorem State.setPc_dt (w : Word) : (s.setPc w).dt = s.dt := rfl
@[simp] theorem State.setPc_st (w : Word) : (s.setPc w).st = s.st := rfl
@[simp] theorem State.setPc_mem (w : Word) : (s.setPc w).mem = s.mem := rfl
@[simp] theorem State.setPc_fb (w : Word) : (s.setPc w).fb = s.fb := rfl
@[simp] theorem State.setPc_redraw (w : Word) : (s.setPc w).redraw = s.redraw := rfl
@[simp] theorem State.setPc_keys (w : Word) : (s.setPc w).keys = s.keys := rfl
@[simp] theorem State.setPc_run (w : Word) : (s.setPc w).run = s.run := rfl
@[simp] theorem State.setPc_draws (w : Word) : (s.setPc w).draws = s.draws := rfl
@[simp] theorem State.getV_setPc (w : Word) (q : Reg) : (s.setPc w).getV q = s.getV q := rfl
@[simp] theorem State.byteAt_setPc (w : Word) (a : Nat) : (s.setPc w).byteAt a = s.byteAt a := rfl
@[simp] theorem State.keyPressed_setPc (w : Word) (q : Reg) : (s.setPc w).keyPressed q = s.keyPressed q := rfl

/-! ### setDt -/

@[simp] theorem State.setDt_v (b : Byte) : (s.setDt b).v = s.v := rfl
@[simp] theorem State.setDt_i (b : Byte) : (s.setDt b).i = s.i := rfl
@[simp] theorem State.setDt_pc (b : Byte) : (s.setDt b).pc = s.pc := rfl
@[simp] theorem State.setDt_stk (b : Byte) : (s.setDt b).stk = s.stk := rfl
@[simp] theorem State.setDt_sp (b : Byte) : (s.setDt b).sp = s.sp := rfl
@[simp] theorem State.setDt_dt (b : Byte) : (s.setDt b).dt = b := rfl
@[simp] theorem State.setDt_st (b : Byte) : (s.setDt b).st = s.st := rfl
@[simp] theorem State.setDt_mem (b : Byte) : (s.setDt b).mem = s.mem := rfl
@[simp] theorem State.setDt_fb (b : Byte) : (s.setDt b).fb = s.fb := rfl
@[simp] theorem State.setDt_redraw (b : Byte) : (s.setDt b).redraw = s.redraw := rfl
@[simp] theorem State.setDt_keys (b : Byte) : (s.setDt b).keys = s.keys := rfl
@[simp] theorem State.setDt_run (b : Byte) : (s.setDt b).run = s.run := rfl
@[simp] theorem State.setDt_draws (b : Byte) : (s.setDt b).draws = s.draws := rfl
@[simp] theorem State.getV_setDt (b : Byte) (q : Reg) : (s.setDt b).getV q = s.getV q := rfl
@[simp] theorem State.byteAt_setDt (b : Byte) (a : Nat) : (s.setDt b).byteAt a = s.byteAt a := rfl
@[simp] theorem State.keyPressed_setDt (b : Byte) (q : Reg) : (s.setDt b).keyPressed q = s.keyPressed q := rfl

/-! ### setSt -/

@[simp] theorem State.setSt_v (b : Byte) : (s.setSt b).v = s.v := rfl
@[simp] theorem State.setSt_i (b : Byte) : (s.setSt b).i = s.i := rfl
@[simp] theorem State.setSt_pc (b : Byte) : (s.setSt b).pc = s.pc := rfl
@[simp] theorem State.setSt_stk (b : Byte) : (s.setSt b).stk = s.stk := rfl
@[simp] theorem State.setSt_sp (b : Byte) : (s.setSt b).sp = s.sp := rfl
@[simp] theorem State.setSt_dt (b : Byte) : (s.setSt b).dt = s.dt := rfl
@[simp] theorem State.setSt_st (b : Byte) : (s.setSt b).st = b := rfl
@[simp] theorem State.setSt_mem (b : Byte) : (s.setSt b).mem = s.mem := rfl
@[simp] theorem State.setSt_fb (b : Byte) : (s.setSt b).fb = s.fb := rfl
@[simp] theorem State.setSt_redraw (b : Byte) : (s.setSt b).redraw = s.redraw := rfl
@[simp] theorem State.setSt_keys (b : Byte) : (s.setSt b).keys = s.keys := rfl
@[simp] theorem State.setSt_run (b : Byte) : (s.setSt b).run = s.run := rfl
@[simp] theorem State.setSt_draws (b : Byte) : (s.setSt b).draws = s.draws := rfl
@[simp] theorem State.getV_setSt (b : Byte) (q : Reg) : (s.setSt b).getV q = s.getV q := rfl
@[simp] theorem State.byteAt_setSt (b : Byte) (a : Nat) : (s.setSt b).byteAt a = s.byteAt a := rfl
@[simp] theorem State.keyPressed_setSt (b : Byte) (q : Reg) : (s.setSt b).keyPressed q = s.keyPressed q := rfl

/-! ### setMem -/

@[simp] theorem State.setMem_v (m : Memory) : (s.setMem m).v = s.v := rfl
@[simp] theorem State.setMem_i (m : Memory) : (s.setMem m).i = s.i := rfl
@[simp] theorem State.setMem_pc (m : Memory) : (s.setMem m).pc = s.pc := rfl
@[simp] theorem State.setMem_stk (m : Memory) : (s.setMem m).stk = s.stk := rfl
@[simp] theorem State.setMem_sp (m : Memory) : (s.setMem m).sp = s.sp := rfl
@[simp] theorem State.setMem_dt (m : Memory) : (s.setMem m).dt = s.dt := rfl
@[simp] theorem State.setMem_st (m : Memory) : (s.setMem m).st = s.st := rfl
@[simp] theorem State.setMem_mem (m : Memory) : (s.setMem m).mem = m := rfl
@[simp] theorem State.setMem_fb (m : Memory) : (s.setMem m).fb = s.fb := rfl
@[simp] theorem State.setMem_redraw (m : Memory) : (s.setMem m).redraw = s.redraw := rfl
@[simp] theorem State.setMem_keys (m : Memory) : (s.setMem m).keys = s.keys := rfl
@[simp] theorem State.setMem_run (m : Memory) : (s.setMem m).run = s.run := rfl
@[simp] theorem State.setMem_draws (m : Memory) : (s.setMem m).draws = s.draws := rfl
@[simp] theorem State.getV_setMem (m : Memory) (q : Reg) : (s.setMem m).getV q = s.getV q := rfl
@[simp] theorem State.keyPressed_setMem (m : Memory) (q : Reg) : (s.setMem m).keyPressed q = s.keyPressed q := rfl

/-! ### setFb -/

@[simp] theorem State.setFb_v (f : Framebuffer) : (s.setFb f).v = s.v := rfl
@[simp] theorem State.setFb_i (f : Framebuffer) : (s.setFb f).i = s.i := rfl
@[simp] theorem State.setFb_pc (f : Framebuffer) : (s.setFb f).pc = s.pc := rfl
@[simp] theorem State.setFb_stk (f : Framebuffer) : (s.setFb f).stk = s.stk := rfl
@[simp] theorem State.setFb_sp (f : Framebuffer) : (s.setFb f).sp = s.sp := rfl
@[simp] theorem State.setFb_dt (f : Framebuffer) : (s.setFb f).dt = s.dt := rfl
@[simp] theorem State.setFb_st (f : Framebuffer) : (s.setFb f).st = s.st := rfl
@[simp] theorem State.setFb_mem (f : Framebuffer) : (s.setFb f).mem = s.mem := rfl
@[simp] theorem State.setFb_fb (f : Framebuffer) : (s.setFb f).fb = f := rfl
@[simp] theorem State.setFb_redraw (f : Framebuffer) : (s.setFb f).redraw = s.redraw := rfl
@[simp] theorem State.setFb_keys (f : Framebuffer) : (s.setFb f).keys = s.keys := rfl
@[simp] theorem State.setFb_run (f : Framebuffer) : (s.setFb f).run = s.run := rfl
@[simp] theorem State.setFb_draws (f : Framebuffer) : (s.setFb f).draws = s.draws := rfl
@[simp] theorem State.getV_setFb (f : Framebuffer) (q : Reg) : (s.setFb f).getV q = s.getV q := rfl
@[simp] theorem State.byteAt_setFb (f : Framebuffer) (a : Nat) : (s.setFb f).byteAt a = s.byteAt a := rfl
@[simp] theorem State.keyPressed_setFb (f : Framebuffer) (q : Reg) : (s.setFb f).keyPressed q = s.keyPressed q := rfl

/-! ### setRedraw -/

@[simp] theorem State.setRedraw_v (b : Bool) : (s.setRedraw b).v = s.v := rfl
@[simp] theorem State.setRedraw_i (b : Bool) : (s.setRedraw b).i = s.i := rfl
@[simp] theorem State.setRedraw_pc (b : Bool) : (s.setRedraw b).pc = s.pc := rfl
@[simp] theorem State.setRedraw_stk (b : Bool) : (s.setRedraw b).stk = s.stk := rfl
@[simp] theorem State.setRedraw_sp (b : Bool) : (s.setRedraw b).sp = s.sp := rfl
@[simp] theorem State.setRedraw_dt (b : Bool) : (s.setRedraw b).dt = s.dt := rfl
@[simp] theorem State.setRedraw_st (b : Bool) : (s.setRedraw b).st = s.st := rfl
@[simp] theorem State.setRedraw_mem (b : Bool) : (s.setRedraw b).mem = s.mem := rfl
@[simp] theorem State.setRedraw_fb (b : Bool) : (s.setRedraw b).fb = s.fb := rfl
@[simp] theorem State.setRedraw_redraw (b : Bool) : (s.setRedraw b).redraw = b := rfl
@[simp] theorem State.setRedraw_keys (b : Bool) : (s.setRedraw b).keys = s.keys := rfl
@[simp] theorem State.setRedraw_run (b : Bool) : (s.setRedraw b).run = s.run := rfl
@[simp] theorem State.setRedraw_draws (b : Bool) : (s.setRedraw b).draws = s.draws := rfl
@[simp] theorem State.getV_setRedraw (b : Bool) (q : Reg) : (s.setRedraw b).getV q = s.getV q := rfl
@[simp] theorem State.byteAt_setRedraw (b : Bool) (a : Nat) : (s.setRedraw b).byteAt a = s.byteAt a := rfl
@[simp] theorem State.keyPressed_setRedraw (b : Bool) (q : Reg) : (s.setRedraw b).keyPressed q = s.keyPressed q := rfl

/-! ### setKeys -/

@[simp] theorem State.setKeys_v (k : Vector Bool 16) : (s.setKeys k).v = s.v := rfl
@[simp] theorem State.setKeys_i (k : Vector Bool 16) : (s.setKeys k).i = s.i := rfl
@[simp] theorem State.setKeys_pc (k : Vector Bool 16) : (s.setKeys k).pc = s.pc := rfl
@[simp] theorem State.setKeys_stk (k : Vector Bool 16) : (s.setKeys k).stk = s.stk := rfl
@[simp] theorem State.setKeys_sp (k : Vector Bool 16) : (s.setKeys k).sp = s.sp := rfl
@[simp] theorem State.setKeys_dt (k : Vector Bool 16) : (s.setKeys k).dt = s.dt := rfl
@[simp] theorem State.setKeys_st (k : Vector Bool 16) : (s.setKeys k).st = s.st := rfl
@[simp] theorem State.setKeys_mem (k : Vector Bool 16) : (s.setKeys k).mem = s.mem := rfl
@[simp] theorem State.setKeys_fb (k : Vector Bool 16) : (s.setKeys k).fb = s.fb := rfl
@[simp] theorem State.setKeys_redraw (k : Vector Bool 16) : (s.setKeys k).redraw = s.redraw := rfl
@[simp] theorem State.setKeys_keys (k : Vector Bool 16) : (s.setKeys k).keys = k := rfl
@[simp] theorem State.setKeys_run (k : Vector Bool 16) : (s.setKeys k).run = s.run := rfl
@[simp] theorem State.setKeys_draws (k : Vector Bool 16) : (s.setKeys k).draws = s.draws := rfl
@[simp] theorem State.getV_setKeys (k : Vector Bool 16) (q : Reg) : (s.setKeys k).getV q = s.getV q := rfl
@[simp] theorem State.byteAt_setKeys (k : Vector Bool 16) (a : Nat) : (s.setKeys k).byteAt a = s.byteAt a := rfl

/-! ### setRun -/

@[simp] theorem State.setRun_v (x : RunState) : (s.setRun x).v = s.v := rfl
@[simp] theorem State.setRun_i (x : RunState) : (s.setRun x).i = s.i := rfl
@[simp] theorem State.setRun_pc (x : RunState) : (s.setRun x).pc = s.pc := rfl
@[simp] theorem State.setRun_stk (x : RunState) : (s.setRun x).stk = s.stk := rfl
@[simp] theorem State.setRun_sp (x : RunState) : (s.setRun x).sp = s.sp := rfl
@[simp] theorem State.setRun_dt (x : RunState) : (s.setRun x).dt = s.dt := rfl
@[simp] theorem State.setRun_st (x : RunState) : (s.setRun x).st = s.st := rfl
@[simp] theorem State.setRun_mem (x : RunState) : (s.setRun x).mem = s.mem := rfl
@[simp] theorem State.setRun_fb (x : RunState) : (s.setRun x).fb = s.fb := rfl
@[simp] theorem State.setRun_redraw (x : RunState) : (s.setRun x).redraw = s.redraw := rfl
@[simp] theorem State.setRun_keys (x : RunState) : (s.setRun x).keys = s.keys := rfl
@[simp] theorem State.setRun_run (x : RunState) : (s.setRun x).run = x := rfl
@[simp] theorem State.setRun_draws (x : RunState) : (s.setRun x).draws = s.draws := rfl
@[simp] theorem State.getV_setRun (x : RunState) (q : Reg) : (s.setRun x).getV q = s.getV q := rfl
@[simp] theorem State.byteAt_setRun (x : RunState) (a : Nat) : (s.setRun x).byteAt a = s.byteAt a := rfl
@[simp] theorem State.keyPressed_setRun (x : RunState) (q : Reg) : (s.setRun x).keyPressed q = s.keyPressed q := rfl

/-! ### setDraws -/

@[simp] theorem State.setDraws_v (n : Nat) : (s.setDraws n).v = s.v := rfl
@[simp] theorem State.setDraws_i (n : Nat) : (s.setDraws n).i = s.i := rfl
@[simp] theorem State.setDraws_pc (n : Nat) : (s.setDraws n).pc = s.pc := rfl
@[simp] theorem State.setDraws_stk (n : Nat) : (s.setDraws n).stk = s.stk := rfl
@[simp] theorem State.setDraws_sp (n : Nat) : (s.setDraws n).sp = s.sp := rfl
@[simp] theorem State.setDraws_dt (n : Nat) : (s.setDraws n).dt = s.dt := rfl
@[simp] theorem State.setDraws_st (n : Nat) : (s.setDraws n).st = s.st := rfl
@[simp] theorem State.setDraws_mem (n : Nat) : (s.setDraws n).mem = s.mem := rfl
@[simp] theorem State.setDraws_fb (n : Nat) : (s.setDraws n).fb = s.fb := rfl
@[simp] theorem State.setDraws_redraw (n : Nat) : (s.setDraws n).redraw = s.redraw := rfl
@[simp] theorem State.setDraws_keys (n : Nat) : (s.setDraws n).keys = s.keys := rfl
@[simp] theorem State.setDraws_run (n : Nat) : (s.setDraws n).run = s.run := rfl
@[simp] theorem State.setDraws_draws (n : Nat) : (s.setDraws n).draws = n := rfl
@[simp] theorem State.getV_setDraws (n : Nat) (q : Reg) : (s.setDraws n).getV q = s.getV q := rfl
@[simp] theorem State.byteAt_setDraws (n : Nat) (a : Nat) : (s.setDraws n).byteAt a = s.byteAt a := rfl
@[simp] theorem State.keyPressed_setDraws (n : Nat) (q : Reg) : (s.setDraws n).keyPressed q = s.keyPressed q := rfl

/-! ### setStack -/

@[simp] theorem State.setStack_v (k : Vector Word 16) (n : Fin 17) : (s.setStack k n).v = s.v := rfl
@[simp] theorem State.setStack_i (k : Vector Word 16) (n : Fin 17) : (s.setStack k n).i = s.i := rfl
@[simp] theorem State.setStack_pc (k : Vector Word 16) (n : Fin 17) : (s.setStack k n).pc = s.pc := rfl
@[simp] theorem State.setStack_stk (k : Vector Word 16) (n : Fin 17) : (s.setStack k n).stk = k := rfl
@[simp] theorem State.setStack_sp (k : Vector Word 16) (n : Fin 17) : (s.setStack k n).sp = n := rfl
@[simp] theorem State.setStack_dt (k : Vector Word 16) (n : Fin 17) : (s.setStack k n).dt = s.dt := rfl
@[simp] theorem State.setStack_st (k : Vector Word 16) (n : Fin 17) : (s.setStack k n).st = s.st := rfl
@[simp] theorem State.setStack_mem (k : Vector Word 16) (n : Fin 17) : (s.setStack k n).mem = s.mem := rfl
@[simp] theorem State.setStack_fb (k : Vector Word 16) (n : Fin 17) : (s.setStack k n).fb = s.fb := rfl
@[simp] theorem State.setStack_redraw (k : Vector Word 16) (n : Fin 17) : (s.setStack k n).redraw = s.redraw := rfl
@[simp] theorem State.setStack_keys (k : Vector Word 16) (n : Fin 17) : (s.setStack k n).keys = s.keys := rfl
@[simp] theorem State.setStack_run (k : Vector Word 16) (n : Fin 17) : (s.setStack k n).run = s.run := rfl
@[simp] theorem State.setStack_draws (k : Vector Word 16) (n : Fin 17) : (s.setStack k n).draws = s.draws := rfl
@[simp] theorem State.getV_setStack (k : Vector Word 16) (n : Fin 17) (q : Reg) : (s.setStack k n).getV q = s.getV q := rfl
@[simp] theorem State.byteAt_setStack (k : Vector Word 16) (n : Fin 17) (a : Nat) : (s.setStack k n).byteAt a = s.byteAt a := rfl
@[simp] theorem State.keyPressed_setStack (k : Vector Word 16) (n : Fin 17) (q : Reg) : (s.setStack k n).keyPressed q = s.keyPressed q := rfl

/-! ### advance -/

@[simp] theorem State.advance_v : (s.advance).v = s.v := rfl
@[simp] theorem State.advance_i : (s.advance).i = s.i := rfl
@[simp] theorem State.advance_pc : (s.advance).pc = s.pc + 2 := rfl
@[simp] theorem State.advance_stk : (s.advance).stk = s.stk := rfl
@[simp] theorem State.advance_sp : (s.advance).sp = s.sp := rfl
@[simp] theorem State.advance_dt : (s.advance).dt = s.dt := rfl
@[simp] theorem State.advance_st : (s.advance).st = s.st := rfl
@[simp] theorem State.advance_mem : (s.advance).mem = s.mem := rfl
@[simp] theorem State.advance_fb : (s.advance).fb = s.fb := rfl
@[simp] theorem State.advance_redraw : (s.advance).redraw = s.redraw := rfl
@[simp] theorem State.advance_keys : (s.advance).keys = s.keys := rfl
@[simp] theorem State.advance_run : (s.advance).run = s.run := rfl
@[simp] theorem State.advance_draws : (s.advance).draws = s.draws := rfl
@[simp] theorem State.getV_advance (q : Reg) : (s.advance).getV q = s.getV q := rfl
@[simp] theorem State.byteAt_advance (a : Nat) : (s.advance).byteAt a = s.byteAt a := rfl
@[simp] theorem State.keyPressed_advance (q : Reg) : (s.advance).keyPressed q = s.keyPressed q := rfl

/-! ### Reads of what was written -/

theorem State.getV_setV (r q : Reg) (b : Byte) :
    (s.setV r b).getV q = if q = r then b else s.getV q := by
  unfold State.getV State.setV
  simp only [Vector.get_eq_getElem, Vector.getElem_set, Fin.ext_iff, eq_comm]

@[simp] theorem State.getV_setV_self (r : Reg) (b : Byte) : (s.setV r b).getV r = b := by
  simp [State.getV_setV]

@[simp] theorem State.getV_setRegs (x : Vector Byte 16) (q : Reg) : (s.setRegs x).getV q = x.get q :=
  rfl

@[simp] theorem State.byteAt_setMem (m : Memory) (a : Nat) : (s.setMem m).byteAt a = m.byteAt a := rfl

@[simp] theorem State.keyPressed_setKeys (k : Vector Bool 16) (q : Reg) :
    (s.setKeys k).keyPressed q = k.get q := rfl

/-! ### skipIf: only PC -/

theorem State.skipIf_eq (c : Bool) :
    s.skipIf c = s.setPc (if c then s.pc + 4 else s.pc + 2) := by
  cases c
  · rfl
  · simp only [State.skipIf, if_true, State.advance, State.setPc]
    congr 1
    rw [BitVec.add_assoc]
    rfl

@[simp] theorem State.skipIf_pc (c : Bool) :
    (s.skipIf c).pc = if c then s.pc + 4 else s.pc + 2 := by rw [State.skipIf_eq]; rfl

@[simp] theorem State.skipIf_v (c : Bool) : (s.skipIf c).v = s.v := by rw [State.skipIf_eq]; rfl
@[simp] theorem State.skipIf_i (c : Bool) : (s.skipIf c).i = s.i := by rw [State.skipIf_eq]; rfl
@[simp] theorem State.skipIf_stk (c : Bool) : (s.skipIf c).stk = s.stk := by rw [State.skipIf_eq]; rfl
@[simp] theorem State.skipIf_sp (c : Bool) : (s.skipIf c).sp = s.sp := by rw [State.skipIf_eq]; rfl
@[simp] theorem State.skipIf_dt (c : Bool) : (s.skipIf c).dt = s.dt := by rw [State.skipIf_eq]; rfl
@[simp] theorem State.skipIf_st (c : Bool) : (s.skipIf c).st = s.st := by rw [State.skipIf_eq]; rfl
@[simp] theorem State.skipIf_mem (c : Bool) : (s.skipIf c).mem = s.mem := by rw [State.skipIf_eq]; rfl
@[simp] theorem State.skipIf_fb (c : Bool) : (s.skipIf c).fb = s.fb := by rw [State.skipIf_eq]; rfl
@[simp] theorem State.skipIf_redraw (c : Bool) : (s.skipIf c).redraw = s.redraw := by rw [State.skipIf_eq]; rfl
@[simp] theorem State.skipIf_keys (c : Bool) : (s.skipIf c).keys = s.keys := by rw [State.skipIf_eq]; rfl
@[simp] theorem State.skipIf_run (c : Bool) : (s.skipIf c).run = s.run := by rw [State.skipIf_eq]; rfl
@[simp] theorem State.skipIf_draws (c : Bool) : (s.skipIf c).draws = s.draws := by rw [State.skipIf_eq]; rfl
@[simp] theorem State.getV_skipIf (c : Bool) (q : Reg) : (s.skipIf c).getV q = s.getV q := by rw [State.skipIf_eq]; rfl
@[simp] theorem State.byteAt_skipIf (c : Bool) (q : Nat) : (s.skipIf c).byteAt q = s.byteAt q := by rw [State.skipIf_eq]; rfl
@[simp] theorem State.keyPressed_skipIf (c : Bool) (q : Reg) : (s.skipIf c).keyPressed q = s.keyPressed q := by rw [State.skipIf_eq]; rfl

/-! ### setFlag and writeWithFlag: VF last -/

@[simp] theorem State.setFlag_i (c : Bool) : (s.setFlag c).i = s.i := rfl
@[simp] theorem State.setFlag_pc (c : Bool) : (s.setFlag c).pc = s.pc := rfl
@[simp] theorem State.setFlag_stk (c : Bool) : (s.setFlag c).stk = s.stk := rfl
@[simp] theorem State.setFlag_sp (c : Bool) : (s.setFlag c).sp = s.sp := rfl
@[simp] theorem State.setFlag_dt (c : Bool) : (s.setFlag c).dt = s.dt := rfl
@[simp] theorem State.setFlag_st (c : Bool) : (s.setFlag c).st = s.st := rfl
@[simp] theorem State.setFlag_mem (c : Bool) : (s.setFlag c).mem = s.mem := rfl
@[simp] theorem State.setFlag_fb (c : Bool) : (s.setFlag c).fb = s.fb := rfl
@[simp] theorem State.setFlag_redraw (c : Bool) : (s.setFlag c).redraw = s.redraw := rfl
@[simp] theorem State.setFlag_keys (c : Bool) : (s.setFlag c).keys = s.keys := rfl
@[simp] theorem State.setFlag_run (c : Bool) : (s.setFlag c).run = s.run := rfl
@[simp] theorem State.setFlag_draws (c : Bool) : (s.setFlag c).draws = s.draws := rfl
@[simp] theorem State.byteAt_setFlag (c : Bool) (q : Nat) : (s.setFlag c).byteAt q = s.byteAt q := rfl
@[simp] theorem State.keyPressed_setFlag (c : Bool) (q : Reg) : (s.setFlag c).keyPressed q = s.keyPressed q := rfl

theorem State.getV_setFlag (c : Bool) (q : Reg) :
    (s.setFlag c).getV q = if q = 15 then flagByte c else s.getV q := State.getV_setV s flagReg q _

@[simp] theorem State.writeWithFlag_i (x : Reg) (b : Byte) (c : Bool) : (s.writeWithFlag x b c).i = s.i := rfl
@[simp] theorem State.writeWithFlag_stk (x : Reg) (b : Byte) (c : Bool) : (s.writeWithFlag x b c).stk = s.stk := rfl
@[simp] theorem State.writeWithFlag_sp (x : Reg) (b : Byte) (c : Bool) : (s.writeWithFlag x b c).sp = s.sp := rfl
@[simp] theorem State.writeWithFlag_dt (x : Reg) (b : Byte) (c : Bool) : (s.writeWithFlag x b c).dt = s.dt := rfl
@[simp] theorem State.writeWithFlag_st (x : Reg) (b : Byte) (c : Bool) : (s.writeWithFlag x b c).st = s.st := rfl
@[simp] theorem State.writeWithFlag_mem (x : Reg) (b : Byte) (c : Bool) : (s.writeWithFlag x b c).mem = s.mem := rfl
@[simp] theorem State.writeWithFlag_fb (x : Reg) (b : Byte) (c : Bool) : (s.writeWithFlag x b c).fb = s.fb := rfl
@[simp] theorem State.writeWithFlag_redraw (x : Reg) (b : Byte) (c : Bool) : (s.writeWithFlag x b c).redraw = s.redraw := rfl
@[simp] theorem State.writeWithFlag_keys (x : Reg) (b : Byte) (c : Bool) : (s.writeWithFlag x b c).keys = s.keys := rfl
@[simp] theorem State.writeWithFlag_run (x : Reg) (b : Byte) (c : Bool) : (s.writeWithFlag x b c).run = s.run := rfl
@[simp] theorem State.writeWithFlag_draws (x : Reg) (b : Byte) (c : Bool) : (s.writeWithFlag x b c).draws = s.draws := rfl
@[simp] theorem State.byteAt_writeWithFlag (x : Reg) (b : Byte) (c : Bool) (q : Nat) : (s.writeWithFlag x b c).byteAt q = s.byteAt q := rfl
@[simp] theorem State.keyPressed_writeWithFlag (x : Reg) (b : Byte) (c : Bool) (q : Reg) : (s.writeWithFlag x b c).keyPressed q = s.keyPressed q := rfl
@[simp] theorem State.writeWithFlag_pc (x : Reg) (b : Byte) (c : Bool) :
    (s.writeWithFlag x b c).pc = s.pc + 2 := rfl

/-- Flag-writing ALU instructions (43_alu.md R160): the flag wins where both go to VF. -/
theorem State.getV_writeWithFlag (x q : Reg) (b : Byte) (c : Bool) :
    (s.writeWithFlag x b c).getV q = if q = 15 then flagByte c else if q = x then b else s.getV q := by
  simp only [State.writeWithFlag, State.getV_advance, State.getV_setFlag, State.getV_setV]

end Sys2Proof.Machine
end

