-- ==== Sys2Proof/Laws/Ops.lean ====
section
/-! SUPPORT. Laws/Ops.lean: for each shared operation of Ops.lean, Operands.lean and Flags.lean, everything
it can answer, with the parameters the machine takes (Machine/Params.lean) or for every value of one. -/

namespace Sys2Proof.Machine

/-! ### Faults -/

/-- Fault entry (60_exceptions.md R224). -/
theorem raise_eq (f : FaultRecord) (s : State) : raise f s = .next (s.setRun (.faulted f)) := rfl

/-! ### Reads -/

/-- A read of one byte (20_memory.md R62). -/
theorem memRead_eq (s : State) (a : Nat) :
    memRead .fault s a = if 0xFFF < a then .error (.addressError a .read s.pc) else .ok (s.byteAt a) := by
  simp [memRead, outOfRange, cellOf]

/-- A run of reads inside memory gives its bytes, address ascending (20_memory.md R65). -/
theorem readRun_ok (s : State) (a n : Nat) (h : n = 0 ∨ a + n ≤ 0x1000) :
    readRun .fault s a n = .ok ((List.range n).map fun k => s.byteAt (a + k)) := by
  induction n generalizing a with
  | zero => rfl
  | succ n ih =>
    have ha : ¬(0xFFF < a) := by omega
    rw [readRun, memRead_eq, if_neg ha, ih (a + 1) (by omega), List.range_succ_eq_map]
    simp [Function.comp_def, Nat.add_assoc, Nat.add_comm 1]

/-- A run of reads that leaves memory reports its lowest address outside (60_exceptions.md R227). -/
theorem readRun_error (s : State) (a n : Nat) (hn : n ≠ 0) (h : 0x1000 < a + n) :
    readRun .fault s a n = .error (.addressError (max a 0x1000) .read s.pc) := by
  induction n generalizing a with
  | zero => exact absurd rfl hn
  | succ n ih =>
    rw [readRun, memRead_eq]
    by_cases ha : 0xFFF < a
    · rw [if_pos ha, Nat.max_eq_left (by omega)]
    · rw [if_neg ha]
      have hm : max (a + 1) 0x1000 = max a 0x1000 := by omega
      rw [ih (a + 1) (by omega) (by omega), hm]

/-! ### Writes -/

/-- The check of one write (20_memory.md R63): range before font. -/
theorem writeFault_eq (pc : Word) (a : Nat) :
    writeFault .fault true pc a =
      if 0xFFF < a then some (.addressError a .write pc)
      else if a ≤ 0x04F then some (.addressError a .fontWrite pc) else none := by
  by_cases h1 : 0xFFF < a <;> by_cases h2 : a ≤ 0x04F <;>
    simp [writeFault, outOfRange, cellOf, h1, h2]

/-- A run of writes inside 0x050 to 0xFFF passes every check. -/
theorem writeRunFault_none (pc : Word) (a n : Nat) (h : n = 0 ∨ (0x050 ≤ a ∧ a + n ≤ 0x1000)) :
    writeRunFault .fault true pc a n = none := by
  induction n generalizing a with
  | zero => rfl
  | succ n ih =>
    have h1 : ¬(0xFFF < a) := by omega
    have h2 : ¬(a ≤ 0x04F) := by omega
    simp only [writeRunFault, writeFault_eq, if_neg h1, if_neg h2]
    exact ih (a + 1) (by omega)

/-- A run of writes from the font table is reported there. -/
theorem writeRunFault_font (pc : Word) (a n : Nat) (hn : n ≠ 0) (h : a ≤ 0x04F) :
    writeRunFault .fault true pc a n = some (.addressError a .fontWrite pc) := by
  obtain ⟨m, rfl⟩ := Nat.exists_eq_succ_of_ne_zero hn
  have h1 : ¬(0xFFF < a) := by omega
  simp only [writeRunFault, writeFault_eq, if_neg h1, if_pos h]

/-- A run of writes that leaves memory reports its lowest address outside (60_exceptions.md R227). -/
theorem writeRunFault_range (pc : Word) (a n : Nat) (hn : n ≠ 0) (hlo : 0x050 ≤ a)
    (h : 0x1000 < a + n) :
    writeRunFault .fault true pc a n = some (.addressError (max a 0x1000) .write pc) := by
  induction n generalizing a with
  | zero => exact absurd rfl hn
  | succ n ih =>
    simp only [writeRunFault, writeFault_eq]
    by_cases ha : 0xFFF < a
    · rw [if_pos ha, Nat.max_eq_left (by omega)]
    · have h2 : ¬(a ≤ 0x04F) := by omega
      have hm : max (a + 1) 0x1000 = max a 0x1000 := by omega
      simp only [if_neg ha, if_neg h2]
      rw [ih (a + 1) (by omega) (by omega) (by omega), hm]

/-- Everything a run of writes can answer: the fault of its lowest failing address and no write, or the
memory with every byte written. -/
theorem storeBytes_eq (s : State) (a : Nat) (bs : List Byte) :
    storeBytes .fault true a bs s =
      if bs = [] then .ok (s.setMem s.mem)
      else if a ≤ 0x04F then .error (.addressError a .fontWrite s.pc)
      else if 0x1000 < a + bs.length then .error (.addressError (max a 0x1000) .write s.pc)
      else .ok (s.setMem (s.mem.storeRun .fault a bs)) := by
  unfold storeBytes
  by_cases hb : bs = []
  · subst hb
    rfl
  · have hn : bs.length ≠ 0 := by simpa using hb
    rw [if_neg hb]
    by_cases h1 : a ≤ 0x04F
    · rw [if_pos h1, writeRunFault_font _ _ _ hn h1]
    · rw [if_neg h1]
      by_cases h2 : 0x1000 < a + bs.length
      · rw [if_pos h2, writeRunFault_range _ _ _ hn (by omega) h2]
      · rw [if_neg h2, writeRunFault_none _ _ _ (by omega)]

/-! ### Call stack -/

/-- The push of a call (40_sequencer_and_flow.md R127). -/
theorem State.push_of_lt (s : State) (w : Word) (h : s.sp.val < 16) :
    s.push w = some (s.setStack (s.stk.set s.sp.val w h) ⟨s.sp.val + 1, by omega⟩) := dif_pos h

/-- A push with sixteen entries in use. -/
theorem State.push_full (s : State) (w : Word) (h : s.sp.val = 16) : s.push w = none :=
  dif_neg (by omega)

/-- The pop of a return (40_sequencer_and_flow.md R128). -/
theorem State.pop_of_pos (s : State) (h : 0 < s.sp.val) :
    s.pop = some (s.stk[s.sp.val - 1]'(by omega), s.setStack s.stk ⟨s.sp.val - 1, by omega⟩) :=
  dif_pos h

/-- A pop with no entry in use. -/
theorem State.pop_empty (s : State) (h : s.sp.val = 0) : s.pop = none := dif_neg (by omega)

/-! ### Register file transfers -/

@[simp] theorem State.regsUpTo_length (s : State) (x : Reg) : (s.regsUpTo x).length = x.val + 1 := by
  simp only [State.regsUpTo, List.length_take, Vector.length_toList]
  omega

/-- Byte k of the registers from V0 to Vx is `V[k]` (48_index_memory.md R213). -/
theorem State.regsUpTo_getElem (s : State) (x : Reg) (k : Nat) (h : k < (s.regsUpTo x).length) :
    (s.regsUpTo x)[k] =
      s.getV ⟨k, Nat.lt_of_lt_of_le (by simpa using h : k < x.val + 1) x.isLt⟩ := by
  simp [State.regsUpTo, State.getV, Vector.get_eq_getElem]

/-- What a run of register writes leaves (48_index_memory.md R214). -/
theorem writeRegsFrom_get (v : Vector Byte 16) (j : Nat) (bs : List Byte) (q : Reg) :
    (writeRegsFrom v j bs).get q =
      if h : j ≤ q.val ∧ q.val < j + bs.length then bs[q.val - j] else v.get q := by
  induction bs generalizing v j with
  | nil =>
    have : ¬(j ≤ q.val ∧ q.val < j + ([] : List Byte).length) := by simp
    rw [dif_neg this]
    rfl
  | cons b bs ih =>
    rw [writeRegsFrom, ih]
    by_cases hq : q.val = j
    · have h1 : ¬(j + 1 ≤ q.val ∧ q.val < j + 1 + bs.length) := by omega
      have h2 : j ≤ q.val ∧ q.val < j + (b :: bs).length := by simp; omega
      rw [dif_neg h1, dif_pos h2]
      simp [Vector.get_eq_getElem, hq]
    · by_cases hin : j + 1 ≤ q.val ∧ q.val < j + 1 + bs.length
      · have h2 : j ≤ q.val ∧ q.val < j + (b :: bs).length := by simp; omega
        rw [dif_pos hin, dif_pos h2]
        have : q.val - j = (q.val - (j + 1)) + 1 := by omega
        simp [this]
      · have h2 : ¬(j ≤ q.val ∧ q.val < j + (b :: bs).length) := by simp; omega
        rw [dif_neg hin, dif_neg h2]
        simp [Vector.get_eq_getElem, Ne.symm hq]

/-! ### Operands -/

/-- A 12-bit address, zero-extended (30_encoding.md R93). -/
theorem target_toNat (nnn : BitVec 12) : (target nnn).toNat = nnn.toNat := by
  have := nnn.isLt
  simp [target]
  omega

/-- The register a shift reads (43_alu.md R167). -/
theorem shiftOperand_eq (src : Config.ShiftSource) (x y : Reg) (s : State) :
    shiftOperand src x y s = s.getV (if src = .vx then x else y) := by
  cases src <;> rfl

/-- A key test in its domain (46_keypad.md R190). -/
theorem keyNumber_of_lt (k : Byte) (h : k.toNat < 16) : keyNumber .fault k = some ⟨k.toNat, h⟩ :=
  dif_pos h

/-- A key test outside it. -/
theorem keyNumber_of_ge (k : Byte) (h : 16 ≤ k.toNat) : keyNumber .fault k = none :=
  dif_neg (by omega)

/-- The address of a glyph (48_index_memory.md R211). -/
theorem glyphAddress_toNat (v : Byte) : (glyphAddress v).toNat = 5 * v.toNat := by
  have := v.isLt
  simp [glyphAddress]
  omega

@[simp] theorem decimalDigits_length (v : Byte) : (decimalDigits v).length = 3 := by
  simp [decimalDigits]

theorem decimalDigits_ne_nil (v : Byte) : decimalDigits v ≠ [] := by simp [decimalDigits]

/-! ### Flags -/

/-- VF as a number (43_alu.md R165). -/
theorem flagByte_toNat (f : Bool) : (flagByte f).toNat = if f then 1 else 0 := by cases f <;> rfl

/-- VF is 1 exactly when the flag holds. -/
theorem flagByte_eq_one (f : Bool) : flagByte f = 1 ↔ f = true := by cases f <;> decide

/-- VF is 0 or 1 after a flag write. -/
theorem flagByte_cases (f : Bool) : flagByte f = 0 ∨ flagByte f = 1 := by cases f <;> decide

/-- The registers of ST_REGS are at least one. -/
theorem State.regsUpTo_ne_nil (s : State) (x : Reg) : s.regsUpTo x ≠ [] := by
  intro h
  simpa using congrArg List.length h

end Sys2Proof.Machine
end

