-- ==== Sys2Proof/Laws/Cycle.lean ====
section
/-! SUPPORT. Laws/Cycle.lean: what fetch and decode answer, and everything one step can do. -/

namespace Sys2Proof.Machine

/-- Fetch (40_sequencer_and_flow.md R121). -/
theorem fetchWord_eq (s : State) :
    fetchWord .fault s =
      if 0xFFE < s.pc.toNat then .error (.addressError s.pc.toNat .fetch s.pc)
      else .ok s.wordAtPc := by
  by_cases h : 0xFFE < s.pc.toNat
  · have h' : outOfRange .fault (s.pc.toNat + 1) = true := by simp [outOfRange]; omega
    rw [fetchWord, if_pos h', if_pos h]
  · have h' : ¬(outOfRange .fault (s.pc.toNat + 1) = true) := by simp [outOfRange]; omega
    rw [fetchWord, if_neg h', if_neg h]
    rfl

/-- Fetch and decode (40_sequencer_and_flow.md R121, R122). -/
theorem fetchInstr_eq (s : State) :
    fetchInstr .fault s =
      if 0xFFE < s.pc.toNat then .error (.addressError s.pc.toNat .fetch s.pc)
      else
        match decodeWord s.wordAtPc with
        | none => .error (.decodeError s.wordAtPc s.pc)
        | some i => .ok i := by
  rw [fetchInstr, fetchWord_eq]
  by_cases h : 0xFFE < s.pc.toNat
  · rw [if_pos h, if_pos h]
  · rw [if_neg h, if_neg h] <;> rfl

/-- Everything a step can do: nothing (a stopped core), a fault of fetch or decode, or the instruction
at PC. -/
theorem step_cases {s : State} {r : Result} (h : step s = r) :
    (s.run ≠ .running ∧ r = .next s) ∨
    (s.run = .running ∧ 0xFFE < s.pc.toNat ∧
      r = .next (s.setRun (.faulted (.addressError s.pc.toNat .fetch s.pc)))) ∨
    (s.run = .running ∧ s.pc.toNat ≤ 0xFFE ∧ decodeWord s.wordAtPc = none ∧
      r = .next (s.setRun (.faulted (.decodeError s.wordAtPc s.pc)))) ∨
    (s.run = .running ∧ s.pc.toNat ≤ 0xFFE ∧ ∃ i, decodeWord s.wordAtPc = some i ∧ r = exec i s) := by
  subst h
  unfold step cycle
  cases hr : s.run with
  | awaitingKey k => exact .inl ⟨by simp, rfl⟩
  | faulted f => exact .inl ⟨by simp, rfl⟩
  | running =>
    right
    simp only [Params.oobPolicy, fetchInstr_eq]
    by_cases h : 0xFFE < s.pc.toNat
    · rw [if_pos h]
      exact .inl ⟨trivial, h, rfl⟩
    · rw [if_neg h]
      cases hd : decodeWord s.wordAtPc with
      | none => exact .inr (.inl ⟨trivial, by omega, rfl, rfl⟩)
      | some i => exact .inr (.inr ⟨trivial, by omega, i, rfl, rfl⟩)

end Sys2Proof.Machine
end

