-- ==== Sys2Proof/Laws/Drawing.lean ====
section
/-! SUPPORT. Laws/Drawing.lean: drawing a sprite flips the pixels of a list, each once, and collides iff
one of them was 1 (45_display.md R181). -/

namespace Sys2Proof.Machine

/-- Flip one pixel, which collides if it was 1. -/
def Drawing.hit (d : Drawing) (k : Nat) : Drawing := ⟨d.fb.flip k, d.collision || d.fb.pixel k⟩

/-- The pixels that a row of a sprite flips. -/
def rowHits (row vx : Nat) (b : Byte) : List Nat :=
  ([0, 1, 2, 3, 4, 5, 6, 7].filter fun c => b.getLsbD (7 - c)).map fun c =>
    pixelIndex row ((vx + c) % Params.fbWidth)

/-- The pixels that the rows of a sprite from row r on flip. -/
def spriteHits (vx vy : Nat) : Nat → List Byte → List Nat
  | _, [] => []
  | r, b :: bs => rowHits ((vy + r) % Params.fbHeight) vx b ++ spriteHits vx vy (r + 1) bs

theorem drawRow_eq_hits (row vx : Nat) (b : Byte) (d : Drawing) :
    drawRow row vx b d = (rowHits row vx b).foldl Drawing.hit d := by
  unfold drawRow rowHits
  rw [List.foldl_map, List.foldl_filter]
  rfl

theorem drawRows_eq_hits (vx vy r : Nat) (bs : List Byte) (d : Drawing) :
    drawRows vx vy r bs d = (spriteHits vx vy r bs).foldl Drawing.hit d := by
  induction bs generalizing r d with
  | nil => rfl
  | cons b bs ih => rw [drawRows, ih, drawRow_eq_hits, spriteHits, List.foldl_append]

theorem mem_rowHits {row vx : Nat} {b : Byte} {k : Nat} :
    k ∈ rowHits row vx b ↔
      ∃ c, c < 8 ∧ b.getLsbD (7 - c) = true ∧ k = pixelIndex row ((vx + c) % 64) := by
  simp only [rowHits, List.mem_map, List.mem_filter, Params.fbWidth]
  constructor
  · rintro ⟨c, ⟨hc, hb⟩, rfl⟩
    exact ⟨c, by simp at hc; omega, hb, rfl⟩
  · rintro ⟨c, hc, hb, rfl⟩
    refine ⟨c, ⟨?_, hb⟩, rfl⟩
    interval_cases c <;> simp

/-- Which pixels a sprite flips: column c of row j is bit 7 - c of byte j. -/
theorem mem_spriteHits {vx vy r : Nat} {bs : List Byte} {k : Nat} :
    k ∈ spriteHits vx vy r bs ↔
      ∃ j c, ∃ h : j < bs.length, c < 8 ∧ bs[j].getLsbD (7 - c) = true ∧
        k = pixelIndex ((vy + (r + j)) % 32) ((vx + c) % 64) := by
  induction bs generalizing r with
  | nil => simp [spriteHits]
  | cons b bs ih =>
    simp only [spriteHits, List.mem_append, mem_rowHits, ih, Params.fbHeight]
    constructor
    · rintro (⟨c, hc, hb, rfl⟩ | ⟨j, c, hj, hc, hb, rfl⟩)
      · exact ⟨0, c, by simp, hc, hb, rfl⟩
      · exact ⟨j + 1, c, by simpa using hj, hc, by simpa using hb, by
          rw [Nat.add_assoc r 1 j, Nat.add_comm 1 j]⟩
    · rintro ⟨j, c, hj, hc, hb, rfl⟩
      cases j with
      | zero => exact .inl ⟨c, hc, by simpa using hb, rfl⟩
      | succ j =>
        exact .inr ⟨j, c, by simpa using hj, hc, by simpa using hb, by
          rw [Nat.add_assoc r 1 j, Nat.add_comm 1 j]⟩

theorem pixelIndex_inj {row col row' col' : Nat} (hc : col < 64) (hc' : col' < 64)
    (h : pixelIndex row col = pixelIndex row' col') : row = row' ∧ col = col' := by
  simp only [pixelIndex, Params.fbWidth] at h
  omega

theorem pixelIndex_lt {row col : Nat} (hr : row < 32) (hc : col < 64) : pixelIndex row col < 2048 := by
  simp only [pixelIndex, Params.fbWidth]
  omega

theorem rowHits_nodup (row vx : Nat) (b : Byte) : (rowHits row vx b).Nodup := by
  unfold rowHits
  refine List.Nodup.map_on ?_ (List.Nodup.filter _ (by decide))
  intro c hc c' hc' h
  simp only [List.mem_filter, List.mem_cons, List.not_mem_nil, or_false, Params.fbWidth] at hc hc' h
  have := (pixelIndex_inj (Nat.mod_lt _ (by decide)) (Nat.mod_lt _ (by decide)) h).2
  omega

/-- One sprite of at most 32 rows never flips a pixel twice. -/
theorem spriteHits_nodup (vx vy r : Nat) (bs : List Byte) (h : bs.length ≤ 32) :
    (spriteHits vx vy r bs).Nodup := by
  induction bs generalizing r with
  | nil => simp [spriteHits]
  | cons b bs ih =>
    simp only [List.length_cons] at h
    rw [spriteHits, List.nodup_append]
    refine ⟨rowHits_nodup _ _ _, ih (r + 1) (by omega), ?_⟩
    intro k hk k' hk' hkk
    subst hkk
    obtain ⟨c, hc, -, rfl⟩ := mem_rowHits.1 hk
    obtain ⟨j, c', hj, hc', -, he⟩ := mem_spriteHits.1 hk'
    have := (pixelIndex_inj (Nat.mod_lt _ (by decide)) (Nat.mod_lt _ (by decide)) he).1
    simp only [Params.fbHeight] at this
    omega

theorem spriteHits_lt {vx vy r : Nat} {bs : List Byte} {k : Nat} (h : k ∈ spriteHits vx vy r bs) :
    k < 2048 := by
  obtain ⟨j, c, -, -, -, rfl⟩ := mem_spriteHits.1 h
  exact pixelIndex_lt (Nat.mod_lt _ (by decide)) (Nat.mod_lt _ (by decide))

/-- A cleared framebuffer (45_display.md R180). -/
theorem Framebuffer.pixel_clear (k : Nat) : Framebuffer.clear.pixel k = false := by
  unfold Framebuffer.pixel Framebuffer.rowOf Framebuffer.clear
  by_cases h : k / Params.fbWidth < 32 <;> simp [h]

/-- Two framebuffers with the same 2048 pixels are the same. -/
theorem Framebuffer.ext_pixel {f g : Framebuffer} (h : ∀ k, k < 2048 → f.pixel k = g.pixel k) : f = g := by
  apply Vector.ext
  intro i hi
  apply BitVec.eq_of_getLsbD_eq
  intro j hj
  have := h (i * 64 + j) (by omega)
  have h1 : (i * 64 + j) / 64 = i := by omega
  have h2 : (i * 64 + j) % 64 = j := by omega
  simpa [Framebuffer.pixel, Framebuffer.rowOf, Params.fbWidth, h1, h2, hi] using this

/-- Every pixel after one is flipped. -/
theorem Framebuffer.pixel_flip (f : Framebuffer) (k j : Nat) (hk : k < 2048) :
    (f.flip k).pixel j = (f.pixel j ^^ decide (j = k)) := by
  have hr : k / 64 < 32 := by omega
  have hc : k % 64 < 64 := Nat.mod_lt _ (by decide)
  simp only [Framebuffer.flip, Framebuffer.pixel, Framebuffer.rowOf, Params.fbWidth,
    Vector.getElem?_setIfInBounds]
  by_cases hrow : k / 64 = j / 64
  · have hj : j / 64 < 32 := by omega
    rw [if_pos hrow, if_pos (by omega)]
    simp only [hrow, Option.getD_some, BitVec.getLsbD_xor, BitVec.getLsbD_twoPow, hc, decide_true,
      Bool.true_and]
    congr 1
    exact decide_eq_decide.2 ⟨fun h => by omega, fun h => by omega⟩
  · have hjk : j ≠ k := fun h => hrow (by rw [h])
    rw [if_neg hrow]
    simp [hjk]

/-- Every pixel after flipping the pixels of a list without repeats. -/
theorem hits_pixel (ks : List Nat) (d : Drawing) (hn : ks.Nodup) (hl : ∀ k ∈ ks, k < 2048) (j : Nat) :
    (ks.foldl Drawing.hit d).fb.pixel j = (d.fb.pixel j ^^ decide (j ∈ ks)) := by
  induction ks generalizing d with
  | nil => simp
  | cons k ks ih =>
    rw [List.nodup_cons] at hn
    rw [List.foldl_cons, ih _ hn.2 (fun k hk => hl k (by simp [hk])), Drawing.hit,
      Framebuffer.pixel_flip _ _ _ (hl k (by simp))]
    by_cases hj : j = k
    · subst hj
      simp [hn.1]
    · simp [hj]

/-- It collides iff it collided before or one of the pixels was 1. -/
theorem hits_collision (ks : List Nat) (d : Drawing) (hn : ks.Nodup) (hl : ∀ k ∈ ks, k < 2048) :
    (ks.foldl Drawing.hit d).collision = (d.collision || ks.any fun k => d.fb.pixel k) := by
  induction ks generalizing d with
  | nil => simp
  | cons k ks ih =>
    rw [List.nodup_cons] at hn
    rw [List.foldl_cons, ih _ hn.2 (fun k hk => hl k (by simp [hk])), List.any_cons, Drawing.hit,
      Bool.or_assoc]
    congr 2
    rw [Bool.eq_iff_iff, List.any_eq_true, List.any_eq_true]
    refine exists_congr fun j => and_congr_right fun hj => ?_
    have hjk : j ≠ k := fun h => hn.1 (h ▸ hj)
    simp [Framebuffer.pixel_flip _ _ _ (hl k (by simp)), hjk]

end Sys2Proof.Machine
end

