-- ==== Sys2Proof/Laws/HostOps.lean ====
section
/-! SUPPORT. Laws/HostOps.lean: for each host operation one lemma that says everything it can answer. -/

namespace Sys2Proof.Machine

/-- Everything `load` can answer, inside the boot window (70_reset_and_hazards.md R263). -/
theorem load_eq (bytes : List Byte) (s : State) :
    load bytes s =
      if bytes.length = 0 then .refused .loadEmptyProgram
      else if 3584 < bytes.length then .refused .loadProgramTooLarge
      else .next (s.setMem (s.mem.storeRun .fault 0x200 bytes)) := by
  unfold load
  by_cases h0 : bytes.length = 0
  · rw [if_pos h0, if_pos h0]
  · rw [if_neg h0, if_neg h0]
    by_cases h1 : 3584 < bytes.length
    · rw [if_pos (by simp only [Params.loadAddress, Params.memSize]; omega), if_pos h1]
    · rw [if_neg (by simp only [Params.loadAddress, Params.memSize]; omega), if_neg h1]
      rfl

/-- Everything the host operation `load` can answer while it is defined (70_reset_and_hazards.md R263,
R265): one that succeeds ends the boot window. -/
theorem Session.apply_load (bytes : List Byte) (s : State) :
    Session.apply (.load bytes) ⟨s, true⟩ =
      if bytes.length = 0 then .refused .loadEmptyProgram
      else if 3584 < bytes.length then .refused .loadProgramTooLarge
      else .next (⟨s.setMem (s.mem.storeRun .fault 0x200 bytes), false⟩, .done) := by
  simp only [Session.apply, load_eq, if_true]
  split
  · rfl
  · split <;> rfl

/-- The host operation `load` while it is not defined (93_implementation_defined.md U15). -/
theorem Session.apply_load_closed (bytes : List Byte) (s : State) :
    Session.apply (.load bytes) ⟨s, false⟩ = .refused .loadOutsideBoot := rfl

/-- The host operation `step` ends the boot window (70_reset_and_hazards.md R265). -/
theorem Session.apply_step {s t : State} (b : Bool) (h : step s = .next t) :
    Session.apply .step ⟨s, b⟩ = .next (⟨t, false⟩, .redraw t.redraw) := by
  simp only [Session.apply, h, Session.answer, stepReturn]

/-- `set_key` in its domain (46_keypad.md R194). -/
theorem setKey_of_lt (k : Reg) (pressed : Bool) (s : State) :
    setKey k.val pressed s = .next (s.setKeys (s.keys.set k.val pressed k.isLt)) :=
  dif_pos k.isLt

/-- `set_key` out of its domain (60_exceptions.md R244). -/
theorem setKey_of_ge (index : Nat) (pressed : Bool) (s : State) (h : 15 < index) :
    setKey index pressed s = .refused (.setKeyIndex index) := dif_neg (by omega)

/-- Everything `resolve_key` can answer while a wait is on (46_keypad.md R195). -/
theorem resolveKey_awaiting (value : Nat) (s : State) (r : Reg) (h : s.run = .awaitingKey r) :
    resolveKey value s =
      if value < 16 then .next ((s.setV r (BitVec.ofNat 8 value)).setRun .running)
      else .refused (.resolveKeyValue value) := by
  rw [resolveKey, h]

/-- `resolve_key` while no wait is on (60_exceptions.md R244). -/
theorem resolveKey_not_awaiting (value : Nat) (s : State) (h : ∀ r, s.run ≠ .awaitingKey r) :
    resolveKey value s = .refused .resolveKeyNotAwaiting := by
  cases hr : s.run with
  | awaitingKey r => exact absurd hr (h r)
  | running => rw [resolveKey, hr]
  | faulted f => rw [resolveKey, hr]

/-- A tick clamps at zero (47_timers.md R203). -/
theorem tickDown_toNat (t : Byte) (n : Nat) : (tickDown t n).toNat = t.toNat - n := by
  have := t.isLt
  simp only [tickDown, BitVec.toNat_ofNat]
  omega

/-- The pixel at a row and a column of what the host reads (45_display.md R185). -/
theorem readFramebuffer_get (s : State) (row : Nat) (h : row < 32) :
    (readFramebuffer s)[row]? =
      some ((List.range 64).map fun col => s.fb.pixel (row * 64 + col)) := by
  simp [readFramebuffer, Params.fbHeight, Params.fbWidth, h, pixelIndex]

/-- `is_awaiting_key` (46_keypad.md R196). -/
theorem isAwaitingKey_iff (s : State) : isAwaitingKey s = true ↔ ∃ r, s.run = .awaitingKey r := by
  unfold isAwaitingKey
  cases s.run <;> simp

/-- `fault_status` (10_state.md R40). -/
theorem faultStatus_iff (s : State) (f : FaultRecord) : faultStatus s = some f ↔ s.run = .faulted f := by
  unfold faultStatus
  cases s.run <;> simp

end Sys2Proof.Machine
end

