-- ==== Sys2Proof/Laws/PerInstr.lean ====
section
/-! SUPPORT. Laws/PerInstr.lean: the family MatchesRow: the word of every instruction selects that
instruction's row of the opcode table (30_encoding.md R94), one lemma per constructor. -/

open Sys2Proof

/-- The word of the instruction agrees with its row's match under its row's mask. -/
def Sys2Proof.Laws.MatchesRow.Statement (i : Instr) : Prop :=
  encode i &&& (rowOf i).mask = (rowOf i).pattern

theorem Sys2Proof.Laws.MatchesRow.cls :
    Sys2Proof.Laws.MatchesRow.Statement .cls :=
  and_FFFF _

theorem Sys2Proof.Laws.MatchesRow.ret :
    Sys2Proof.Laws.MatchesRow.Statement .ret :=
  and_FFFF _

theorem Sys2Proof.Laws.MatchesRow.jp (nnn : BitVec 12) :
    Sys2Proof.Laws.MatchesRow.Statement (.jp nnn) :=
  (and_F000 _).trans (by simp [encode, rowOf]; decide)

theorem Sys2Proof.Laws.MatchesRow.call (nnn : BitVec 12) :
    Sys2Proof.Laws.MatchesRow.Statement (.call nnn) :=
  (and_F000 _).trans (by simp [encode, rowOf]; decide)

theorem Sys2Proof.Laws.MatchesRow.seImm (x : Reg) (kk : Byte) :
    Sys2Proof.Laws.MatchesRow.Statement (.seImm x kk) :=
  (and_F000 _).trans (by simp [encode, rowOf]; decide)

theorem Sys2Proof.Laws.MatchesRow.sneImm (x : Reg) (kk : Byte) :
    Sys2Proof.Laws.MatchesRow.Statement (.sneImm x kk) :=
  (and_F000 _).trans (by simp [encode, rowOf]; decide)

theorem Sys2Proof.Laws.MatchesRow.seReg (x y : Reg) :
    Sys2Proof.Laws.MatchesRow.Statement (.seReg x y) :=
  (and_F00F _).trans (by simp [encode, rowOf]; decide)

theorem Sys2Proof.Laws.MatchesRow.ldImm (x : Reg) (kk : Byte) :
    Sys2Proof.Laws.MatchesRow.Statement (.ldImm x kk) :=
  (and_F000 _).trans (by simp [encode, rowOf]; decide)

theorem Sys2Proof.Laws.MatchesRow.addImm (x : Reg) (kk : Byte) :
    Sys2Proof.Laws.MatchesRow.Statement (.addImm x kk) :=
  (and_F000 _).trans (by simp [encode, rowOf]; decide)

theorem Sys2Proof.Laws.MatchesRow.ldReg (x y : Reg) :
    Sys2Proof.Laws.MatchesRow.Statement (.ldReg x y) :=
  (and_F00F _).trans (by simp [encode, rowOf]; decide)

theorem Sys2Proof.Laws.MatchesRow.orReg (x y : Reg) :
    Sys2Proof.Laws.MatchesRow.Statement (.orReg x y) :=
  (and_F00F _).trans (by simp [encode, rowOf]; decide)

theorem Sys2Proof.Laws.MatchesRow.andReg (x y : Reg) :
    Sys2Proof.Laws.MatchesRow.Statement (.andReg x y) :=
  (and_F00F _).trans (by simp [encode, rowOf]; decide)

theorem Sys2Proof.Laws.MatchesRow.xorReg (x y : Reg) :
    Sys2Proof.Laws.MatchesRow.Statement (.xorReg x y) :=
  (and_F00F _).trans (by simp [encode, rowOf]; decide)

theorem Sys2Proof.Laws.MatchesRow.addReg (x y : Reg) :
    Sys2Proof.Laws.MatchesRow.Statement (.addReg x y) :=
  (and_F00F _).trans (by simp [encode, rowOf]; decide)

theorem Sys2Proof.Laws.MatchesRow.sub (x y : Reg) :
    Sys2Proof.Laws.MatchesRow.Statement (.sub x y) :=
  (and_F00F _).trans (by simp [encode, rowOf]; decide)

theorem Sys2Proof.Laws.MatchesRow.shr (x y : Reg) :
    Sys2Proof.Laws.MatchesRow.Statement (.shr x y) :=
  (and_F00F _).trans (by simp [encode, rowOf]; decide)

theorem Sys2Proof.Laws.MatchesRow.subn (x y : Reg) :
    Sys2Proof.Laws.MatchesRow.Statement (.subn x y) :=
  (and_F00F _).trans (by simp [encode, rowOf]; decide)

theorem Sys2Proof.Laws.MatchesRow.shl (x y : Reg) :
    Sys2Proof.Laws.MatchesRow.Statement (.shl x y) :=
  (and_F00F _).trans (by simp [encode, rowOf]; decide)

theorem Sys2Proof.Laws.MatchesRow.sneReg (x y : Reg) :
    Sys2Proof.Laws.MatchesRow.Statement (.sneReg x y) :=
  (and_F00F _).trans (by simp [encode, rowOf]; decide)

theorem Sys2Proof.Laws.MatchesRow.ldI (nnn : BitVec 12) :
    Sys2Proof.Laws.MatchesRow.Statement (.ldI nnn) :=
  (and_F000 _).trans (by simp [encode, rowOf]; decide)

theorem Sys2Proof.Laws.MatchesRow.jpV0 (nnn : BitVec 12) :
    Sys2Proof.Laws.MatchesRow.Statement (.jpV0 nnn) :=
  (and_F000 _).trans (by simp [encode, rowOf]; decide)

theorem Sys2Proof.Laws.MatchesRow.rnd (x : Reg) (kk : Byte) :
    Sys2Proof.Laws.MatchesRow.Statement (.rnd x kk) :=
  (and_F000 _).trans (by simp [encode, rowOf]; decide)

theorem Sys2Proof.Laws.MatchesRow.drw (x y : Reg) (n : Nat) :
    Sys2Proof.Laws.MatchesRow.Statement (.drw x y n) :=
  (and_F000 _).trans (by simp [encode, rowOf]; decide)

theorem Sys2Proof.Laws.MatchesRow.skp (x : Reg) :
    Sys2Proof.Laws.MatchesRow.Statement (.skp x) :=
  (and_F0FF _).trans (by simp [encode, rowOf]; decide)

theorem Sys2Proof.Laws.MatchesRow.sknp (x : Reg) :
    Sys2Proof.Laws.MatchesRow.Statement (.sknp x) :=
  (and_F0FF _).trans (by simp [encode, rowOf]; decide)

theorem Sys2Proof.Laws.MatchesRow.ldVxDt (x : Reg) :
    Sys2Proof.Laws.MatchesRow.Statement (.ldVxDt x) :=
  (and_F0FF _).trans (by simp [encode, rowOf]; decide)

theorem Sys2Proof.Laws.MatchesRow.ldVxK (x : Reg) :
    Sys2Proof.Laws.MatchesRow.Statement (.ldVxK x) :=
  (and_F0FF _).trans (by simp [encode, rowOf]; decide)

theorem Sys2Proof.Laws.MatchesRow.ldDtVx (x : Reg) :
    Sys2Proof.Laws.MatchesRow.Statement (.ldDtVx x) :=
  (and_F0FF _).trans (by simp [encode, rowOf]; decide)

theorem Sys2Proof.Laws.MatchesRow.ldStVx (x : Reg) :
    Sys2Proof.Laws.MatchesRow.Statement (.ldStVx x) :=
  (and_F0FF _).trans (by simp [encode, rowOf]; decide)

theorem Sys2Proof.Laws.MatchesRow.addI (x : Reg) :
    Sys2Proof.Laws.MatchesRow.Statement (.addI x) :=
  (and_F0FF _).trans (by simp [encode, rowOf]; decide)

theorem Sys2Proof.Laws.MatchesRow.ldF (x : Reg) :
    Sys2Proof.Laws.MatchesRow.Statement (.ldF x) :=
  (and_F0FF _).trans (by simp [encode, rowOf]; decide)

theorem Sys2Proof.Laws.MatchesRow.ldB (x : Reg) :
    Sys2Proof.Laws.MatchesRow.Statement (.ldB x) :=
  (and_F0FF _).trans (by simp [encode, rowOf]; decide)

theorem Sys2Proof.Laws.MatchesRow.stRegs (x : Reg) :
    Sys2Proof.Laws.MatchesRow.Statement (.stRegs x) :=
  (and_F0FF _).trans (by simp [encode, rowOf]; decide)

theorem Sys2Proof.Laws.MatchesRow.ldRegs (x : Reg) :
    Sys2Proof.Laws.MatchesRow.Statement (.ldRegs x) :=
  (and_F0FF _).trans (by simp [encode, rowOf]; decide)
end

