-- ==== Sys2Proof/Tests/Slice0.lean ====
section
/-! SUPPORT. Tests/Slice0.lean: the model's own tests. Expected results come from spec/95_test_vectors.md
(the id stands before each) and from the encodings of 30_encoding.md. The theorems test_meets_… show that
the hypotheses of the obligations can be met. -/

namespace Sys2Proof.Tests

open Sys2Proof Sys2Proof.Machine

/-! ### Well-formedness: the one check (30_encoding.md R93) -/

theorem test_wellFormed_drw_fifteen : (Instr.drw 0 0 15).wellFormed = true := by decide
theorem test_illFormed_drw_sixteen : (Instr.drw 0 0 16).wellFormed = false := by decide

/-! ### Decoding: a word of every instruction, its bits written from 30_encoding.md R95 to R102 -/

theorem test_decode_cls : decodeWord 0b0000_0000_1110_0000 = some (.cls) := by decide
theorem test_decode_ret : decodeWord 0b0000_0000_1110_1110 = some (.ret) := by decide
theorem test_decode_jp : decodeWord 0b0001_1010_1011_1100 = some (.jp 0xABC) := by decide
theorem test_decode_call : decodeWord 0b0010_0011_0000_0001 = some (.call 0x301) := by decide
theorem test_decode_seImm : decodeWord 0b0011_1010_1100_0101 = some (.seImm 10 0xC5) := by decide
theorem test_decode_sneImm : decodeWord 0b0100_0001_0010_0011 = some (.sneImm 1 0x23) := by decide
theorem test_decode_seReg : decodeWord 0b0101_1010_1011_0000 = some (.seReg 10 11) := by decide
theorem test_decode_ldImm : decodeWord 0b0110_1010_1100_0011 = some (.ldImm 10 0xC3) := by decide
theorem test_decode_addImm : decodeWord 0b0111_0001_0000_0010 = some (.addImm 1 0x02) := by decide
theorem test_decode_ldReg : decodeWord 0b1000_1010_1011_0000 = some (.ldReg 10 11) := by decide
theorem test_decode_orReg : decodeWord 0b1000_1010_1011_0001 = some (.orReg 10 11) := by decide
theorem test_decode_andReg : decodeWord 0b1000_1010_1011_0010 = some (.andReg 10 11) := by decide
theorem test_decode_xorReg : decodeWord 0b1000_1010_1011_0011 = some (.xorReg 10 11) := by decide
theorem test_decode_addReg : decodeWord 0b1000_1010_1011_0100 = some (.addReg 10 11) := by decide
theorem test_decode_sub : decodeWord 0b1000_1010_1011_0101 = some (.sub 10 11) := by decide
theorem test_decode_shr : decodeWord 0b1000_1010_1011_0110 = some (.shr 10 11) := by decide
theorem test_decode_subn : decodeWord 0b1000_1010_1011_0111 = some (.subn 10 11) := by decide
theorem test_decode_shl : decodeWord 0b1000_1010_1011_1110 = some (.shl 10 11) := by decide
theorem test_decode_sneReg : decodeWord 0b1001_1010_1011_0000 = some (.sneReg 10 11) := by decide
theorem test_decode_ldI : decodeWord 0b1010_0011_0000_1111 = some (.ldI 0x30F) := by decide
theorem test_decode_jpV0 : decodeWord 0b1011_0011_0000_0100 = some (.jpV0 0x304) := by decide
theorem test_decode_rnd : decodeWord 0b1100_0001_1010_0101 = some (.rnd 1 0xA5) := by decide
theorem test_decode_drw : decodeWord 0b1101_1010_1011_1100 = some (.drw 10 11 12) := by decide
theorem test_decode_skp : decodeWord 0b1110_1010_1001_1110 = some (.skp 10) := by decide
theorem test_decode_sknp : decodeWord 0b1110_1010_1010_0001 = some (.sknp 10) := by decide
theorem test_decode_ldVxDt : decodeWord 0b1111_1010_0000_0111 = some (.ldVxDt 10) := by decide
theorem test_decode_ldVxK : decodeWord 0b1111_1010_0000_1010 = some (.ldVxK 10) := by decide
theorem test_decode_ldDtVx : decodeWord 0b1111_1010_0001_0101 = some (.ldDtVx 10) := by decide
theorem test_decode_ldStVx : decodeWord 0b1111_1010_0001_1000 = some (.ldStVx 10) := by decide
theorem test_decode_addI : decodeWord 0b1111_1010_0001_1110 = some (.addI 10) := by decide
theorem test_decode_ldF : decodeWord 0b1111_1010_0010_1001 = some (.ldF 10) := by decide
theorem test_decode_ldB : decodeWord 0b1111_1010_0011_0011 = some (.ldB 10) := by decide
theorem test_decode_stRegs : decodeWord 0b1111_1010_0101_0101 = some (.stRegs 10) := by decide
theorem test_decode_ldRegs : decodeWord 0b1111_1010_0110_0101 = some (.ldRegs 10) := by decide

/-! Illegal words (DEC-3, DEC-5, DEC-7, DEC-10, DEC-12) and the reasons the byte decoder gives. -/

theorem test_illegal_group0 : [0x0000, 0x00E1, 0x00FE, 0x0123, 0x0FFF].map decodeWord =
    [none, none, none, none, none] := by decide
theorem test_illegal_low_nibbles : [0x5AB1, 0x9ABF, 0x8AB8, 0x8ABD, 0x8ABF].map decodeWord =
    [none, none, none, none, none] := by decide
theorem test_illegal_groups_E_and_F : [0xEA00, 0xEA9F, 0xEAA0, 0xFA00, 0xFA08, 0xFA1F, 0xFA75, 0xFA85,
    0xFAFF].map decodeWord = [none, none, none, none, none, none, none, none, none] := by decide
theorem test_decodeBytes_rest : decodeBytes [0x12, 0x34, 0xAB] = .ok (.jp 0x234, [0xAB]) := by decide
theorem test_decodeBytes_truncated : decodeBytes [0x12] = .error .truncated := by decide
theorem test_decodeBytes_illegal : decodeBytes [0x00, 0x00] = .error (.illegal 0x0000) := by decide
theorem test_decodeTableWord : decodeTableWord 16 0x6005 = some (.ldImm 0 5) := by decide

/-! ### One instruction at a time -/

/-- The next state, if there is one. -/
def nextOf (r : Result) : Option State :=
  match r with
  | .next t => some t
  | .fault _ => none
  | .refused _ => none

/-- One instruction from a state. -/
def after (i : Instr) (s : State) : Option State := nextOf (exec i s)

/-- One step on an instruction word placed at PC. -/
def stepOn (w : Nat) (s : State) : Option State := nextOf (step (s.withFetchWord 16 w))

/-- Some registers written, on the reset state. -/
def withV (l : List (Reg × Byte)) : State := l.foldl (fun s p => s.setV p.1 p.2) State.reset

/-- Some bytes written at an address. -/
def withBytes (s : State) (a : Nat) (bs : List Byte) : State := s.setMem (s.mem.storeRun .fault a bs)

/-- The pixels at some places set. -/
def withPixels (s : State) (ks : List Nat) : State := s.setFb (ks.foldl Framebuffer.flip s.fb)

/-- The stack holding one entry at a place, and so many entries in use. -/
def withStack (s : State) (j : Fin 16) (w : Word) (sp : Fin 17) : State :=
  s.setStack (s.stk.set j.val w j.isLt) sp

/-- DSP-1: all pixels set before. -/
theorem test_cls_blanks :
    (after .cls (State.reset.setFb (Vector.replicate 32 (BitVec.allOnes 64)))).map (fun t => (t.fb, t.redraw, t.pc)) =
      some (0, true, 0x0202) := by decide
/-- RET-3. -/
theorem test_ret_pops_top :
    (after .ret ((withStack (withStack State.reset 0 0x0200 1) 1 0x0300 2).setPc 0x0400)).map
      (fun t => (t.pc, t.sp, t.stk.get 1)) = some (0x0302, 1, 0x0300) := by decide
/-- RET-2. -/
theorem test_ret_underflow :
    (stepOn 0x00EE State.reset).map (fun t => (t.run, t.pc)) =
      some (.faulted (.stackUnderflow 0x0200), 0x0200) := by decide
/-- JP-1. -/
theorem test_jp : (stepOn 0x1ABC State.reset).map (fun t => t.pc) = some 0x0ABC := by decide
/-- CALL-2: the sixteenth nested call. -/
theorem test_call_last_slot :
    (after (.call 0x500) ((State.reset.setStack State.reset.stk 15).setPc 0x0400)).map
      (fun t => (t.pc, t.sp, t.stk.get 15)) = some (0x0500, 16, 0x0400) := by decide
/-- CALL-3. -/
theorem test_call_overflow :
    (after (.call 0x500) ((State.reset.setStack State.reset.stk 16).setPc 0x0400)).map
      (fun t => (t.run, t.pc, t.sp)) = some (.faulted (.stackOverflow 0x0400), 0x0400, 16) := by decide
/-- SK-13: VF compared like any register. -/
theorem test_seImm_vf :
    (stepOn 0x3F01 (withV [(15, 1)])).map (fun t => (t.pc, t.getV 15)) = some (0x0204, 1) := by decide
/-- SK-2. -/
theorem test_seImm_not : (stepOn 0x3100 (withV [(1, 1)])).map (fun t => t.pc) = some 0x0202 := by decide
/-- SK-3. -/
theorem test_sneImm : (stepOn 0x4100 (withV [(1, 1)])).map (fun t => t.pc) = some 0x0204 := by decide
/-- SK-4. -/
theorem test_sneImm_not : (stepOn 0x4100 State.reset).map (fun t => t.pc) = some 0x0202 := by decide
/-- SK-6. -/
theorem test_seReg_not :
    (stepOn 0x5120 (withV [(1, 7), (2, 8)])).map (fun t => t.pc) = some 0x0202 := by decide
/-- SK-7: one register with itself. -/
theorem test_seReg_same : (stepOn 0x5330 State.reset).map (fun t => t.pc) = some 0x0204 := by decide
/-- SK-8. -/
theorem test_sneReg :
    (stepOn 0x9120 (withV [(1, 7), (2, 8)])).map (fun t => t.pc) = some 0x0204 := by decide
/-- IMM-1. -/
theorem test_ldImm :
    (stepOn 0x6AC3 State.reset).map (fun t => (t.getV 10, t.pc)) = some (0xC3, 0x0202) := by decide
/-- S3, IMM-3, with VF = 1 before. -/
theorem test_addImm_wraps :
    (stepOn 0x7102 (withV [(1, 0xFF), (15, 1)])).map (fun t => (t.getV 1, t.getV 15)) =
      some (0x01, 1) := by decide
/-- IMM-6. -/
theorem test_addImm_vf :
    (stepOn 0x7F01 (withV [(15, 0xFF)])).map (fun t => t.getV 15) = some 0 := by decide
/-- ALU-1. -/
theorem test_ldReg :
    (stepOn 0x8120 (withV [(2, 0x5A)])).map (fun t => (t.getV 1, t.getV 2)) =
      some (0x5A, 0x5A) := by decide
/-- ALU-2. -/
theorem test_or :
    (stepOn 0x8121 (withV [(1, 0xF0), (2, 0x0F), (15, 1)])).map (fun t => (t.getV 1, t.getV 15)) =
      some (0xFF, 1) := by decide
/-- ALU-3. -/
theorem test_and :
    (stepOn 0x8122 (withV [(1, 0xF0), (2, 0x3C), (15, 1)])).map (fun t => (t.getV 1, t.getV 15)) =
      some (0x30, 1) := by decide
/-- ALU-4. -/
theorem test_xor :
    (stepOn 0x8123 (withV [(1, 0xF0), (2, 0x3C), (15, 1)])).map (fun t => (t.getV 1, t.getV 15)) =
      some (0xCC, 1) := by decide
/-- ALU-9. -/
theorem test_addReg_carry :
    (stepOn 0x8124 (withV [(1, 0xFF), (2, 0xFF)])).map (fun t => (t.getV 1, t.getV 15)) =
      some (0xFE, 1) := by decide
/-- ALU-12: the sum is lost. -/
theorem test_addReg_vf :
    (stepOn 0x8FF4 (withV [(15, 0x7F)])).map (fun t => t.getV 15) = some 0 := by decide
/-- ALU-15. -/
theorem test_sub_borrow :
    (stepOn 0x8125 (withV [(1, 0x05), (2, 0x0A)])).map (fun t => (t.getV 1, t.getV 15)) =
      some (0xFB, 0) := by decide
/-- ALU-16: equal operands. -/
theorem test_sub_equal :
    (stepOn 0x8125 (withV [(1, 0x07), (2, 0x07)])).map (fun t => (t.getV 1, t.getV 15)) =
      some (0, 1) := by decide
/-- ALU-22: `V[y]` is not the operand. -/
theorem test_shr :
    (stepOn 0x8126 (withV [(1, 0xFF)])).map (fun t => (t.getV 1, t.getV 15)) = some (0x7F, 1) := by decide
/-- ALU-23: the shifted value is lost. -/
theorem test_shr_vf : (stepOn 0x8F06 (withV [(15, 0x03)])).map (fun t => t.getV 15) = some 1 := by decide
/-- ALU-25. -/
theorem test_subn :
    (stepOn 0x8127 (withV [(1, 0x05), (2, 0x0A)])).map (fun t => (t.getV 1, t.getV 15)) =
      some (0x05, 1) := by decide
/-- ALU-24. -/
theorem test_subn_borrow :
    (stepOn 0x8127 (withV [(1, 0x0A), (2, 0x05)])).map (fun t => (t.getV 1, t.getV 15)) =
      some (0xFB, 0) := by decide
/-- ALU-27. -/
theorem test_shl :
    (stepOn 0x812E (withV [(1, 0x81)])).map (fun t => (t.getV 1, t.getV 15)) = some (0x02, 1) := by decide
/-- ALU-28. -/
theorem test_shl_no_bit :
    (stepOn 0x812E (withV [(1, 0x40)])).map (fun t => (t.getV 1, t.getV 15)) = some (0x80, 0) := by decide
/-- SK-10. -/
theorem test_sneReg_same : (stepOn 0x9330 State.reset).map (fun t => t.pc) = some 0x0202 := by decide
/-- IMM-8. -/
theorem test_ldI : (stepOn 0xA000 (State.reset.setI 0x1234)).map (fun t => t.i) = some 0 := by decide
/-- JPV-2. -/
theorem test_jpV0 :
    (stepOn 0xBFFF (withV [(0, 0xFF)])).map (fun t => t.pc) = some 0x10FE := by decide
/-- JPV-3: the 3 is no register index. -/
theorem test_jpV0_not_vx :
    (stepOn 0xB300 (withV [(0, 0x02), (3, 0x99)])).map (fun t => t.pc) = some 0x0302 := by decide
/-- RND-2: zero whatever the draw. -/
theorem test_rnd_masked :
    (after (.rnd 1 0) (withV [(1, 0x55)])).map (fun t => t.getV 1) = some 0 := by
  simp [after, nextOf, exec, execRnd]
/-- DSP-3: the glyph 0, at the origin. -/
theorem test_drw_glyph :
    (stepOn 0xD005 State.reset).map (fun t => (t.fb, t.getV 15, t.redraw)) =
      some ((withPixels State.reset [0, 1, 2, 3, 64, 67, 128, 131, 192, 195, 256, 257, 258, 259]).fb, 0,
        true) := by decide
/-- P3, step 4: across both edges; and with a pixel of it set before. -/
theorem test_drw_edges :
    (after (.drw 0 1 2) (withPixels ((withBytes (withV [(0, 0x3E), (1, 0x1F)]) 0x20C
      [0xC0, 0x81]).setI 0x20C) [5])).map (fun t => (t.fb, t.getV 15)) =
      some ((withPixels State.reset [62, 2046, 2047]).fb, 1) := by decide
/-- KEY-1. -/
theorem test_skp :
    (stepOn 0xE39E ((withV [(3, 10)]).setKeys (State.reset.keys.set 10 true))).map (fun t => t.pc) =
      some 0x0204 := by decide
/-- KEY-5. -/
theorem test_skp_fault :
    (stepOn 0xE09E (withV [(0, 0x10)])).map (fun t => (t.run, t.pc)) =
      some (.faulted (.keyIndexError 0x10 0x0200), 0x0200) := by decide
/-- KEY-3. -/
theorem test_sknp : (stepOn 0xE3A1 (withV [(3, 10)])).map (fun t => t.pc) = some 0x0204 := by decide
/-- KEY-4. -/
theorem test_sknp_pressed :
    (stepOn 0xE3A1 ((withV [(3, 10)]).setKeys (State.reset.keys.set 10 true))).map (fun t => t.pc) =
      some 0x0202 := by decide
/-- TMR-1. -/
theorem test_ldVxDt :
    (stepOn 0xF407 (State.reset.setDt 0x2A)).map (fun t => (t.getV 4, t.dt)) =
      some (0x2A, 0x2A) := by decide
/-- KEY-7. -/
theorem test_ldVxK :
    (stepOn 0xF30A (State.reset.setKeys (State.reset.keys.set 5 true))).map
      (fun t => (t.run, t.pc, t.getV 3)) = some (.awaitingKey 3, 0x0202, 0) := by decide
/-- TMR-2. -/
theorem test_ldDtVx :
    (stepOn 0xF315 (withV [(3, 10)])).map (fun t => (t.dt, t.st)) = some (10, 0) := by decide
/-- TMR-3. -/
theorem test_ldStVx :
    (stepOn 0xF318 (withV [(3, 10)])).map (fun t => (t.st, t.dt, soundOn t)) =
      some (10, 0, true) := by decide
/-- IDX-2: the limit itself. -/
theorem test_addI_limit :
    (stepOn 0xF21E (withV [(2, 0xFF)])).map (fun t => (t.i, t.getV 15)) = some (0x00FF, 0) := by decide
/-- IDX-5b: VF as the operand. -/
theorem test_addI_vf :
    (stepOn 0xFF1E ((withV [(15, 5)]).setI 0x00FE)).map (fun t => (t.i, t.getV 15)) =
      some (0x0103, 1) := by decide
/-- IDX-8. -/
theorem test_ldF : (stepOn 0xF029 (withV [(0, 0xFF)])).map (fun t => t.i) = some 0x04FB := by decide
/-- IDX-9. -/
theorem test_ldB :
    (stepOn 0xF033 ((withV [(0, 0xEA)]).setI 0x300)).map
      (fun t => ([0x300, 0x301, 0x302].map t.byteAt, t.i)) = some ([2, 3, 4], 0x300) := by decide
/-- IDX-15. -/
theorem test_ldB_fault :
    (stepOn 0xF033 (State.reset.setI 0x0FFE)).map (fun t => (t.run, t.byteAt 0xFFE)) =
      some (.faulted (.addressError 0x1000 .write 0x0200), 0) := by decide
/-- IDX-16. -/
theorem test_stRegs :
    (stepOn 0xF155 ((withV [(0, 0x11), (1, 0x22)]).setI 0x400)).map
      (fun t => ([0x400, 0x401, 0x402].map t.byteAt, t.i)) = some ([0x11, 0x22, 0], 0x402) := by decide
/-- IDX-13 for `Fx55`: the font is protected. -/
theorem test_stRegs_font :
    (stepOn 0xF255 (State.reset.setI 0x004E)).map (fun t => t.run) =
      some (.faulted (.addressError 0x04E .fontWrite 0x0200)) := by decide
/-- IDX-21. -/
theorem test_ldRegs_font :
    (stepOn 0xF465 State.reset).map (fun t => ([0, 1, 4, 5].map t.getV, t.i)) =
      some ([0xF0, 0x90, 0xF0, 0], 5) := by decide
/-- IDX-22. -/
theorem test_ldRegs_fault :
    (stepOn 0xFF65 (State.reset.setI 0x0FF1)).map (fun t => (t.run, t.getV 0, t.i)) =
      some (.faulted (.addressError 0x1000 .read 0x0200), 0, 0x0FF1) := by decide

/-! ### Fetch and the host's operations -/

/-- SEQ-3: stepping with no program. -/
theorem test_step_no_program :
    (nextOf (step State.reset)).map (fun t => t.run) =
      some (.faulted (.decodeError 0 0x0200)) := by decide
/-- JP-3, second step. -/
theorem test_fetch_fault :
    (nextOf (step (State.reset.setPc 0x0FFF))).map (fun t => (t.run, t.pc)) =
      some (.faulted (.addressError 0xFFF .fetch 0xFFF), 0xFFF) := by decide
/-- SEQ-1. -/
theorem test_step_awaiting :
    nextOf (step (State.reset.setRun (.awaitingKey 3))) =
      some (State.reset.setRun (.awaitingKey 3)) := by decide
/-- RST-1. -/
theorem test_reset : hostReset ((withV [(0, 5)]).setRun (.faulted (.stackOverflow 0))) = State.reset := by
  decide
/-- LOAD-4: an odd length. -/
theorem test_load :
    (nextOf (load [0xAB] State.reset)).map (fun t => (t.byteAt 0x200, t.wordAtPc)) =
      some (0xAB, 0xAB00) := by decide
/-- 93_implementation_defined.md U15: `load` a second time, and after a step; and again after a reset. -/
theorem test_load_once :
    Session.applyAll [.load [1], .load [2]] Session.fresh = .refused .loadOutsideBoot ∧
    Session.applyAll [.step, .load [2]] Session.fresh = .refused .loadOutsideBoot ∧
    Session.applyAll [.setKey 5 true, .load [2], .reset, .load [1]] Session.fresh =
      .next ⟨withBytes State.reset 0x200 [1], false⟩ := ⟨rfl, rfl, rfl⟩
/-- KEY-8. -/
theorem test_setKey :
    (nextOf (setKey 5 true (State.reset.setRun (.awaitingKey 3)))).map
      (fun t => (t.keyPressed 5, t.run, t.getV 3)) = some (true, .awaitingKey 3, 0) := by decide
/-- KEY-9. -/
theorem test_resolveKey :
    (nextOf (resolveKey 10 (State.reset.setRun (.awaitingKey 3)))).map
      (fun t => (t.getV 3, t.run, t.keyPressed 10)) = some (10, .running, false) := by decide
/-- TMR-4 and TMR-7. -/
theorem test_tickTimers :
    (tickTimers 3 ((State.reset.setDt 10).setSt 2)).dt = 7 ∧
    (tickTimers 3 ((State.reset.setDt 10).setSt 2)).st = 0 ∧
    (tickTimers 1000 (State.reset.setDt 5)).dt = 0 := by decide
/-- What the host reads of a single pixel (45_display.md R185). -/
theorem test_readFramebuffer :
    ((readFramebuffer (withPixels State.reset [66]))[1]?.bind (fun r => r[2]?)) = some true := by decide
/-- 60_exceptions.md R220: the codes. -/
theorem test_fault_codes : (FaultRecord.decodeError 0 0).code = 1 ∧ (FaultRecord.stackOverflow 0).code = 2 ∧
    (FaultRecord.stackUnderflow 0).code = 3 ∧ (FaultRecord.addressError 0 .read 0).code = 4 ∧
    (FaultRecord.keyIndexError 0 0).code = 5 := by decide
/-- Memory is equal data after a byte is written back (the canonical form). -/
theorem test_memory_canonical : (withBytes (withBytes State.reset 0x300 [7]) 0x300 [0]).mem = [] ∧
    (withBytes (withBytes State.reset 0x301 [1]) 0x300 [2]).mem =
      (withBytes State.reset 0x300 [2, 1]).mem := by decide

/-! ### The parameters' other alternatives (00_scope.md R7) -/

/-- ALU-22 with SHIFT_SOURCE = Vy. -/
theorem test_shift_source_vy :
    shiftOperand .vy 1 2 (withV [(1, 0xFF)]) = 0 := by decide
/-- KEY-5 with KEY_INDEX_POLICY = low_nibble. -/
theorem test_key_low_nibble : keyNumber .lowNibble 0x10 = some 0 := by decide
/-- IDX-1 with FX1E_LIMIT = 0x0FFF. -/
theorem test_index_limit : indexOverflow 0x0FFF 0x0300 0x10 = false := by decide
/-- OOB_POLICY = wrap: a read at 0x1000 is one at 0x000 (20_memory.md R62). -/
theorem test_oob_wrap : memRead .wrap State.reset 0x1000 = .ok 0xF0 := by decide
/-- FONT_PROTECT = false (20_memory.md R63). -/
theorem test_font_unprotected : writeFault .fault false 0x200 0 = none := by decide


/-! ### The hypotheses of the obligations can be met

One theorem for each obligation with hypotheses, a clause each where there are several, at the boundary
values. -/

/-- A state with I at an address. -/
def atI (w : Word) : State := State.reset.setI w

/-- A state waiting for a key into `V[3]`. -/
def waiting : State := State.reset.setRun (.awaitingKey 3)

/-- A faulted state. -/
def dead : State := State.reset.setRun (.faulted (.decodeError 0 0x0200))

/-- The word of CLS at PC = 0x0FFE, the last PC a fetch can succeed at. -/
def lastFetch : State := (State.reset.setPc 0x0FFE).withFetchWord 16 0x00E0

/-- ResetLeavesTheStatedValues: its ranges of addresses and pixels at their ends. -/
theorem test_meets_reset : Params.font[79]? = some 0x80 ∧ State.reset.byteAt 79 = 0x80 ∧
    State.reset.byteAt 80 = 0 ∧ State.reset.byteAt 4095 = 0 ∧ State.reset.fb.pixel 2047 = false := by decide

/-- StepRunsTheDecodedInstruction, at the last PC. -/
theorem test_meets_step : lastFetch.run = .running ∧ lastFetch.pc.toNat ≤ 0xFFE ∧
    decodeWord (wordOfBytes (lastFetch.byteAt lastFetch.pc.toNat)
      (lastFetch.byteAt (lastFetch.pc.toNat + 1))) = some .cls := by decide

/-- CycleDriverGatesFetchesAndDecodes: its six clauses. -/
theorem test_meets_cycle : waiting.run = .awaitingKey 3 ∧
    dead.run = .faulted (.decodeError 0 0x0200) ∧
    ((State.reset.setPc 0x0FFF).run = .running ∧ 0xFFE < (State.reset.setPc 0x0FFF).pc.toNat) ∧
    ((State.reset.setPc 0x0FFE).run = .running ∧ (State.reset.setPc 0x0FFE).pc.toNat ≤ 0xFFE ∧
      decodeWord (State.reset.setPc 0x0FFE).wordAtPc = none) ∧
    (lastFetch.run = .running ∧ lastFetch.pc.toNat ≤ 0xFFE ∧ decodeWord lastFetch.wordAtPc = some .cls) ∧
    nextOf (step lastFetch) = after .cls lastFetch := by decide

/-- DecodeInvertsEncode and EncodeInvertsDecode. -/
theorem test_meets_encoding : (Instr.drw 15 15 15).wellFormed = true ∧
    decodeWord 0xDFFF = some (.drw 15 15 15) := by decide

/-- OpcodeTableDecides: a word with an instruction, a word with none. -/
theorem test_meets_table : decodeWord 0xFF65 = some (.ldRegs 15) ∧ decodeWord 0xFF66 = none := by decide

/-- CallPushesItsOwnAddress: the last free entry, and none. -/
theorem test_meets_call : (State.reset.setStack State.reset.stk 15).sp.val < 16 ∧
    (State.reset.setStack State.reset.stk 16).sp.val = 16 := by decide

/-- ReturnPopsAndAddsTwo: the first entry, the last, and none. -/
theorem test_meets_return : (withStack State.reset 0 0x0200 1).sp.val = (0 : Fin 16).val + 1 ∧
    (withStack State.reset 15 0x0200 16).sp.val = (15 : Fin 16).val + 1 ∧
    State.reset.sp.val = 0 := by decide

/-- RandomIsAMaskedDraw: a mask with a 0 bit. -/
theorem test_meets_random : (0x0F : Byte).getLsbD 7 = false := by decide

/-- DrawXorsTheSprite: no row, the last byte of memory, one byte beyond it. -/
theorem test_meets_draw : (0 < 16 ∧ (0 = 0 ∨ (atI 0xFFFF).i.toNat + 0 ≤ 0x1000)) ∧
    (15 < 16 ∧ (15 = 0 ∨ (atI 0x0FF1).i.toNat + 15 ≤ 0x1000)) ∧
    (15 < 16 ∧ 15 ≠ 0 ∧ 0x1000 < (atI 0x0FF2).i.toNat + 15) := by decide

/-- DrawXorsTheSprite: a pixel of the sprite, one that is not, and a collision. -/
theorem test_meets_draw_pixels : SpriteAt State.reset 0 0 5 0 0 ∧ ¬SpriteAt State.reset 0 0 0 0 0 ∧
    SpriteAt (withPixels State.reset [0]) 0 0 5 0 0 ∧
    (withPixels State.reset [0]).fb.pixel (0 * 64 + 0) = true := by
  refine ⟨⟨0, 0, by decide, by decide, by decide, by decide, by decide⟩, ?_,
    ⟨0, 0, by decide, by decide, by decide, by decide, by decide⟩, by decide⟩
  rintro ⟨r, c, hr, -⟩
  omega

/-- DrawingTwiceRestores: coordinates beside VF, and VF as a coordinate that the first draw leaves. -/
theorem test_meets_double_draw : (5 < 16 ∧ (5 = 0 ∨ State.reset.i.toNat + 5 ≤ 0x1000)) ∧
    ¬((0 : Reg) = 15 ∨ (1 : Reg) = 15) ∧
    (after (.drw 15 15 5) State.reset).map (fun t => t.getV 15) = some (State.reset.getV 15) := by decide

/-- KeyTestsSkip: the last key, and one beyond it. -/
theorem test_meets_keys : ((withV [(3, 15)]).getV 3).toNat = (15 : Reg).val ∧
    15 < ((withV [(3, 16)]).getV 3).toNat := by decide

/-- StoreDecimalDigits: the two ends of its range and the first address on each side of it. -/
theorem test_meets_decimal :
    (0x050 ≤ (atI 0x050).i.toNat ∧ (atI 0x050).i.toNat + 2 ≤ 0xFFF) ∧
    (0x050 ≤ (atI 0xFFD).i.toNat ∧ (atI 0xFFD).i.toNat + 2 ≤ 0xFFF) ∧
    (atI 0x04F).i.toNat ≤ 0x04F ∧ 0xFFF < (atI 0xFFE).i.toNat + 2 := by decide

/-- StoreRegisters: the two ends of its range and the first address on each side of it. -/
theorem test_meets_store :
    (0x050 ≤ (atI 0x050).i.toNat ∧ (atI 0x050).i.toNat + (0 : Reg).val ≤ 0xFFF) ∧
    (0x050 ≤ (atI 0xFF0).i.toNat ∧ (atI 0xFF0).i.toNat + (15 : Reg).val ≤ 0xFFF) ∧ (15 : Reg) ≤ 15 ∧
    (atI 0x04F).i.toNat ≤ 0x04F ∧ 0xFFF < (atI 0xFF1).i.toNat + (15 : Reg).val := by decide

/-- LoadRegisters: the last address of its range, and the next. -/
theorem test_meets_load_regs : (atI 0xFF0).i.toNat + (15 : Reg).val ≤ 0xFFF ∧
    0xFFF < (atI 0xFF1).i.toNat + (15 : Reg).val := by decide

/-- NextFetchSeesTheStore: the state of program P6 before its fourth step. -/
theorem test_meets_coherence :
    let s := ((withV [(0, 0x12), (1, 0x08)]).setI 0x208).setPc 0x206
    s.run = .running ∧ 0x050 ≤ s.i.toNat ∧ s.i.toNat + (1 : Reg).val ≤ 0xFFF ∧ (0 : Reg) < 1 ∧
      s.pc.toNat + 2 = s.i.toNat + (0 : Reg).val ∧
      decodeWord (wordOfBytes (s.getV 0) (s.getV (0 + 1))) = some (.jp 0x208) := by decide

/-- FaultsArePrecise: the step with no program. -/
theorem test_meets_precise : State.reset.run = .running ∧ step State.reset = .next dead ∧
    dead.run = .faulted (.decodeError 0 0x0200) := ⟨rfl, rfl, rfl⟩

/-- EachInstructionRaisesItsOwnFault: each of its cases. -/
theorem test_meets_own_fault :
    [after (.call 0) (State.reset.setStack State.reset.stk 16), after .ret State.reset,
      after (.drw 0 0 1) (atI 0x1000), after (.ldRegs 0) (atI 0x1000), after (.ldB 0) (atI 0xFFE),
      after (.ldB 0) (atI 0x04F), after (.stRegs 0) (atI 0x1000), after (.stRegs 0) (atI 0),
      after (.skp 0) (withV [(0, 16)]), after (.sknp 0) (withV [(0, 16)])].map
        (fun o => o.bind faultStatus) =
    [some (.stackOverflow 0x200), some (.stackUnderflow 0x200),
      some (.addressError 0x1000 .read 0x200), some (.addressError 0x1000 .read 0x200),
      some (.addressError 0x1000 .write 0x200), some (.addressError 0x04F .fontWrite 0x200),
      some (.addressError 0x1000 .write 0x200), some (.addressError 0 .fontWrite 0x200),
      some (.keyIndexError 16 0x200), some (.keyIndexError 16 0x200)] := by decide

/-- StepKeepsFaultRecordsTruthful: a faulted state. -/
theorem test_meets_truthful : dead.Truthful ∧ step dead = .next dead := by
  refine ⟨?_, rfl⟩
  intro f hf
  cases hf
  exact ⟨rfl, (by decide : decodeWord 0 = none)⟩

/-- RunStateTransitions: its four causes, and a core that is not Running. -/
theorem test_meets_transitions :
    Session.apply .step ⟨State.reset, true⟩ = .next (⟨dead, false⟩, .redraw false) ∧
    dead.run ≠ State.reset.run ∧
    after (.ldVxK 3) State.reset = some (waiting.setPc 0x0202) ∧ waiting.run ≠ State.reset.run ∧
    Session.apply (.resolveKey 0) ⟨waiting, false⟩ = .next (⟨State.reset, false⟩, .done) ∧
    Session.apply .reset ⟨dead, false⟩ = .next (⟨State.reset, true⟩, .done) ∧
    dead.run ≠ .running := by
  refine ⟨rfl, by decide, by decide, by decide, rfl, rfl, by decide⟩

/-- OnlyTheListedInstructionsWrite: a part left alone, and RUN written by a fault. -/
theorem test_meets_writers : exec (.ldImm 0 5) State.reset = .next ((withV [(0, 5)]).setPc 0x0202) ∧
    writers .index (.ldImm 0 5) = false ∧
    exec .ret State.reset = .next (State.reset.setRun (.faulted (.stackUnderflow 0x0200))) ∧
    writers .run .ret = false := ⟨rfl, rfl, rfl, rfl⟩

/-- OnlyTheListedHostOpsWrite. -/
theorem test_meets_host_writers :
    Session.apply .ackRedraw ⟨State.reset, true⟩ = .next (⟨State.reset, true⟩, .done) ∧
    HostOp.ackRedraw ≠ .step ∧ HostOp.ackRedraw ≠ .reset ∧ hostWriters .keys .ackRedraw = false := by
  refine ⟨rfl, by decide, by decide, rfl⟩

/-- OnlyTheSevenWriteVf. -/
theorem test_meets_seven : exec (.ldImm 14 5) State.reset = .next ((withV [(14, 5)]).setPc 0x0202) ∧
    writesFlag (.ldImm 14 5) = false ∧ namesFlag (.ldImm 14 5) = false := ⟨rfl, rfl, rfl⟩

/-- OnlyKeyTestsReadKeys. -/
theorem test_meets_key_readers : (∀ x, Instr.ldVxK 3 ≠ .skp x) ∧ ∀ x, Instr.ldVxK 3 ≠ .sknp x := by
  constructor <;> intro x h <;> cases h

/-- EndedRunIsAFixedPoint: JP-2. -/
theorem test_meets_ended : (State.reset.withFetchWord 16 0x1200).ended := by
  refine ⟨rfl, by decide, by decide⟩

/-- StepKeepsTheInvariant and HostOpsKeepTheInvariant, with PC at its bound. -/
theorem test_meets_invariant : (State.reset.setPc 0x10FE).Inv ∧
    step (State.reset.setPc 0x10FE) =
      .next ((State.reset.setPc 0x10FE).setRun (.faulted (.addressError 0x10FE .fetch 0x10FE))) ∧
    Session.apply (.load [1]) ⟨State.reset.setPc 0x10FE, true⟩ =
      .next (⟨withBytes (State.reset.setPc 0x10FE) 0x200 [1], false⟩, .done) :=
  ⟨⟨rfl, fun _ _ => rfl, by decide, by decide⟩, rfl, rfl⟩

/-- ReachablePcNeverWraps: the session after no operation, and one in which the program `BFFF` was loaded
and run with V[0] = 0. -/
theorem test_meets_reachable : Session.fresh.Reachable ∧
    Session.Reachable ⟨(withBytes State.reset 0x200 [0xBF, 0xFF]).setPc 0x0FFF, false⟩ :=
  ⟨⟨[], rfl⟩, ⟨[.load [0xBF, 0xFF], .step, .tickTimers 2], rfl⟩⟩

/-- LoadCopiesTheProgram: the lengths 0, 1, 3584 and 3585, and a byte of the program. -/
theorem test_meets_load : ([] : List Byte).length = 0 ∧ 1 ≤ ([0xAB] : List Byte).length ∧
    ([0xAB] : List Byte).length ≤ 3584 ∧ ([0xAB] : List Byte)[0]? = some 0xAB ∧
    1 ≤ (List.replicate 3584 (0 : Byte)).length ∧ (List.replicate 3584 (0 : Byte)).length ≤ 3584 ∧
    0x200 + (List.replicate 3585 (0 : Byte)).length > 4096 := by
  rw [List.length_replicate, List.length_replicate]
  decide

/-- KeyOperations and OutOfDomainCallsAreRefused: a wait, the values 15 and 16, no wait. -/
theorem test_meets_key_operations : waiting.run = .awaitingKey 3 ∧ 15 ≤ 15 ∧ 15 < 16 ∧
    ∀ r, State.reset.run ≠ .awaitingKey r := by
  refine ⟨rfl, by decide, by decide, ?_⟩
  intro r h
  cases h

/-- OutOfDomainCallsAreRefused: `load` outside the boot window, and inside it with a bad length. -/
theorem test_meets_out_of_domain : (⟨State.reset, false⟩ : Session).loadable = false ∧
    Session.fresh.loadable = true ∧ (([] : List Byte).length = 0 ∨ 3584 < ([] : List Byte).length) ∧
    3584 < (List.replicate 3585 (0 : Byte)).length := by
  rw [List.length_replicate]
  decide

/-- DisplayOperations: the last row and column. -/
theorem test_meets_display : 31 < 32 ∧ 63 < 64 := by decide

/-- StoppedCoreWaitsForTheHost: a wait during which the host does what it may. -/
theorem test_meets_stopped : waiting.run ≠ .running ∧
    (∀ op ∈ [HostOp.step, .setKey 5 true, .tickTimers 2, .ackRedraw],
      op ≠ .reset ∧ ∀ v, op ≠ .resolveKey v) ∧
    Session.applyAll [.step, .setKey 5 true, .tickTimers 2, .ackRedraw] ⟨waiting, false⟩ =
      .next ⟨waiting.setKeys (State.reset.keys.set 5 true), false⟩ := by
  refine ⟨by decide, by simp, rfl⟩

end Sys2Proof.Tests
end

section
/-! What the accessors read in the reset state (10_state.md R37), and the statement about it. -/

namespace Sys2Proof.Machine

/-! ### Memory that no cell lists -/

theorem Params.font_length : Params.font.length = Params.fontSize := rfl

/-- Below the font's size an unlisted address reads the font. -/
theorem some_unlisted_eq_font {a : Nat} (h : a < Params.fontSize) :
    some (unlisted a) = Params.font[a]? := by
  have hlen : a < Params.font.length := Params.font_length ▸ h
  rw [unlisted, List.getD_eq_getElem _ _ hlen, List.getElem?_eq_getElem hlen]

/-- From the font's size on an unlisted address reads zero. -/
theorem unlisted_eq_zero {a : Nat} (h : Params.fontSize ≤ a) : unlisted a = 0 :=
  List.getD_eq_default _ _ (Params.font_length ▸ h)

/-! ### The accessors at reset -/

@[simp] theorem State.getV_reset (r : Reg) : State.reset.getV r = 0 := Vector.get_replicate 16 0 r

@[simp] theorem State.stk_get_reset (j : Fin 16) : State.reset.stk.get j = 0 := Vector.get_replicate 16 0 j

@[simp] theorem State.keyPressed_reset (k : Reg) : State.reset.keyPressed k = false :=
  Vector.get_replicate 16 false k

@[simp] theorem State.byteAt_reset (a : Nat) : State.reset.byteAt a = unlisted a := rfl

@[simp] theorem State.pixel_reset (k : Nat) : State.reset.fb.pixel k = false := Framebuffer.pixel_clear k

/-- Settles O1: memory lists nothing at reset, so it reads as `unlisted`, the font below 80 and zero from
there on; each vector repeats its zero value; the other elements are fields written out. -/
theorem resetLeavesTheStatedValues : Obligations.ResetLeavesTheStatedValues := by
  have hfont : ∀ a, a < 80 → some (State.reset.byteAt a) = Params.font[a]? :=
    fun a ha => by rw [State.byteAt_reset, some_unlisted_eq_font ha]
  have hzero : ∀ a, 80 ≤ a → a < 4096 → State.reset.byteAt a = 0 :=
    fun a ha _ => by rw [State.byteAt_reset, unlisted_eq_zero ha]
  exact ⟨State.getV_reset, rfl, rfl, State.stk_get_reset, rfl, rfl, rfl, Params.font_length, hfont, hzero,
    fun k _ => State.pixel_reset k, rfl, State.keyPressed_reset, rfl⟩

end Sys2Proof.Machine
end

section
/-! The overlaps of the fields of an instruction word (30_encoding.md R92), and the statement about its six
fields. -/

namespace Sys2Proof

/-- The low byte is the nibbles `y` and `n`. -/
theorem fieldKk_toNat_eq_yn (op : Word) :
    (fieldKk op).toNat = (fieldY op).val * 16 + (fieldN op).toNat := by
  rw [fieldKk_toNat, fieldY_val, fieldN_toNat]
  omega

/-- The address is the nibble `x` above the low byte. -/
theorem fieldNnn_toNat_eq_xkk (op : Word) :
    (fieldNnn op).toNat = (fieldX op).val * 256 + (fieldKk op).toNat := by
  rw [fieldNnn_toNat, fieldX_val, fieldKk_toNat]
  omega

/-- Settles O9: each field is its slice as a number; `nnn` is `x` above `kk`, and `kk` is `y` above `n`. -/
theorem fieldsAreTheBitSlices : Obligations.FieldsAreTheBitSlices := by
  intro op
  have hnnn : (fieldNnn op).toNat =
      (fieldX op).val * 256 + ((fieldY op).val * 16 + (fieldN op).toNat) := by
    rw [fieldNnn_toNat_eq_xkk, fieldKk_toNat_eq_yn]
  exact ⟨fieldGroup_toNat op, fieldX_val op, fieldY_val op, fieldN_toNat op, fieldKk_toNat op,
    fieldNnn_toNat op, fieldKk_toNat_eq_yn op, hnnn⟩

end Sys2Proof
end

section
/-! What the decoder answers, group by group (30_encoding.md R94), and that a decoded word is the word of its
instruction. -/

namespace Sys2Proof

/-! ### The decoder, an equation per group -/

theorem decodeWord_group0 {op : Word} (h : fieldGroup op = 0x0) :
    decodeWord op = decodeGroup0 op := by simp [decodeWord, h]

theorem decodeWord_group1 {op : Word} (h : fieldGroup op = 0x1) :
    decodeWord op = some (.jp (fieldNnn op)) := by simp [decodeWord, h]

theorem decodeWord_group2 {op : Word} (h : fieldGroup op = 0x2) :
    decodeWord op = some (.call (fieldNnn op)) := by simp [decodeWord, h]

theorem decodeWord_group3 {op : Word} (h : fieldGroup op = 0x3) :
    decodeWord op = some (.seImm (fieldX op) (fieldKk op)) := by simp [decodeWord, h]

theorem decodeWord_group4 {op : Word} (h : fieldGroup op = 0x4) :
    decodeWord op = some (.sneImm (fieldX op) (fieldKk op)) := by simp [decodeWord, h]

theorem decodeWord_group5 {op : Word} (h : fieldGroup op = 0x5) :
    decodeWord op =
      if fieldN op = 0x0 then some (.seReg (fieldX op) (fieldY op)) else none := by simp [decodeWord, h]

theorem decodeWord_group6 {op : Word} (h : fieldGroup op = 0x6) :
    decodeWord op = some (.ldImm (fieldX op) (fieldKk op)) := by simp [decodeWord, h]

theorem decodeWord_group7 {op : Word} (h : fieldGroup op = 0x7) :
    decodeWord op = some (.addImm (fieldX op) (fieldKk op)) := by simp [decodeWord, h]

theorem decodeWord_group8 {op : Word} (h : fieldGroup op = 0x8) :
    decodeWord op = decodeGroup8 op := by simp [decodeWord, h]

theorem decodeWord_group9 {op : Word} (h : fieldGroup op = 0x9) :
    decodeWord op =
      if fieldN op = 0x0 then some (.sneReg (fieldX op) (fieldY op)) else none := by simp [decodeWord, h]

theorem decodeWord_groupA {op : Word} (h : fieldGroup op = 0xA) :
    decodeWord op = some (.ldI (fieldNnn op)) := by simp [decodeWord, h]

theorem decodeWord_groupB {op : Word} (h : fieldGroup op = 0xB) :
    decodeWord op = some (.jpV0 (fieldNnn op)) := by simp [decodeWord, h]

theorem decodeWord_groupC {op : Word} (h : fieldGroup op = 0xC) :
    decodeWord op = some (.rnd (fieldX op) (fieldKk op)) := by simp [decodeWord, h]

theorem decodeWord_groupD {op : Word} (h : fieldGroup op = 0xD) :
    decodeWord op = some (.drw (fieldX op) (fieldY op) (fieldN op).toNat) := by simp [decodeWord, h]

theorem decodeWord_groupE {op : Word} (h : fieldGroup op = 0xE) :
    decodeWord op = decodeGroupE op := by simp [decodeWord, h]

theorem decodeWord_groupF {op : Word} (h : fieldGroup op = 0xF) :
    decodeWord op = decodeGroupF op := by simp [decodeWord, h]

/-! ### A word from its fields -/

theorem encodeNnn_of_fields {op : Word} {g : BitVec 4} {nnn : BitVec 12} (hg : fieldGroup op = g)
    (hn : fieldNnn op = nnn) : encodeNnn g nnn = op := by
  rw [← hg, ← hn, encodeNnn_fields]

theorem encodeXkk_of_fields {op : Word} {g : BitVec 4} {kk : Byte} (hg : fieldGroup op = g)
    (hk : fieldKk op = kk) : encodeXkk g (fieldX op) kk = op := by
  rw [← hg, ← hk, encodeXkk_fields]

theorem encodeXyn_of_fields {op : Word} {g n : BitVec 4} (hg : fieldGroup op = g)
    (hn : fieldN op = n) : encodeXyn g (fieldX op) (fieldY op) n = op := by
  rw [← hg, ← hn, encodeXyn_fields]

/-! ### A decoded word is the word of its instruction -/

/-- One test of a sub-decoder, with the tests below it. -/
theorem encode_of_ite {c : Prop} [Decidable c] {op : Word} {i j : Instr} {rest : Option Instr}
    (h : (if c then some j else rest) = some i) (hj : c → encode j = op)
    (hrest : rest = some i → encode i = op) : encode i = op := by
  split at h
  · cases h
    exact hj ‹c›
  · exact hrest h

theorem encode_of_decodeGroup0 {op : Word} {i : Instr} (hg : fieldGroup op = 0x0)
    (h : decodeGroup0 op = some i) : encode i = op := by
  unfold decodeGroup0 at h
  iterate 2 refine encode_of_ite h (encodeNnn_of_fields hg) fun h => ?_
  cases h

theorem encode_of_decodeGroup8 {op : Word} {i : Instr} (hg : fieldGroup op = 0x8)
    (h : decodeGroup8 op = some i) : encode i = op := by
  unfold decodeGroup8 at h
  iterate 9 refine encode_of_ite h (encodeXyn_of_fields hg) fun h => ?_
  cases h

theorem encode_of_decodeGroupE {op : Word} {i : Instr} (hg : fieldGroup op = 0xE)
    (h : decodeGroupE op = some i) : encode i = op := by
  unfold decodeGroupE at h
  iterate 2 refine encode_of_ite h (encodeXkk_of_fields hg) fun h => ?_
  cases h

theorem encode_of_decodeGroupF {op : Word} {i : Instr} (hg : fieldGroup op = 0xF)
    (h : decodeGroupF op = some i) : encode i = op := by
  unfold decodeGroupF at h
  iterate 9 refine encode_of_ite h (encodeXkk_of_fields hg) fun h => ?_
  cases h

theorem fieldGroup_cases (op : Word) :
    fieldGroup op = 0x0 ∨ fieldGroup op = 0x1 ∨ fieldGroup op = 0x2 ∨ fieldGroup op = 0x3 ∨
    fieldGroup op = 0x4 ∨ fieldGroup op = 0x5 ∨ fieldGroup op = 0x6 ∨ fieldGroup op = 0x7 ∨
    fieldGroup op = 0x8 ∨ fieldGroup op = 0x9 ∨ fieldGroup op = 0xA ∨ fieldGroup op = 0xB ∨
    fieldGroup op = 0xC ∨ fieldGroup op = 0xD ∨ fieldGroup op = 0xE ∨ fieldGroup op = 0xF := by
  generalize fieldGroup op = g
  revert g
  decide

/-- Decoding loses no bit of the word (30_encoding.md R94): the cases are the sixteen groups in order. -/
theorem encode_of_decodeWord {op : Word} {i : Instr} (h : decodeWord op = some i) : encode i = op := by
  obtain hg | hg | hg | hg | hg | hg | hg | hg | hg | hg | hg | hg | hg | hg | hg | hg :=
    fieldGroup_cases op
  · exact encode_of_decodeGroup0 hg (decodeWord_group0 hg ▸ h)
  · cases (decodeWord_group1 hg).symm.trans h
    exact encodeNnn_of_fields hg rfl
  · cases (decodeWord_group2 hg).symm.trans h
    exact encodeNnn_of_fields hg rfl
  · cases (decodeWord_group3 hg).symm.trans h
    exact encodeXkk_of_fields hg rfl
  · cases (decodeWord_group4 hg).symm.trans h
    exact encodeXkk_of_fields hg rfl
  · rw [decodeWord_group5 hg] at h
    exact encode_of_ite h (encodeXyn_of_fields hg) nofun
  · cases (decodeWord_group6 hg).symm.trans h
    exact encodeXkk_of_fields hg rfl
  · cases (decodeWord_group7 hg).symm.trans h
    exact encodeXkk_of_fields hg rfl
  · exact encode_of_decodeGroup8 hg (decodeWord_group8 hg ▸ h)
  · rw [decodeWord_group9 hg] at h
    exact encode_of_ite h (encodeXyn_of_fields hg) nofun
  · cases (decodeWord_groupA hg).symm.trans h
    exact encodeNnn_of_fields hg rfl
  · cases (decodeWord_groupB hg).symm.trans h
    exact encodeNnn_of_fields hg rfl
  · cases (decodeWord_groupC hg).symm.trans h
    exact encodeXkk_of_fields hg rfl
  · cases (decodeWord_groupD hg).symm.trans h
    exact encodeXyn_of_fields hg (by simp)
  · exact encode_of_decodeGroupE hg (decodeWord_groupE hg ▸ h)
  · exact encode_of_decodeGroupF hg (decodeWord_groupF hg ▸ h)

end Sys2Proof
end

section
/-! The words of a row of mask 0xF000, and the two jumps (40_sequencer_and_flow.md R126, R129), which write
nothing but PC. -/

namespace Sys2Proof.Machine

/-! ### The words of a row that has its group to itself -/

/-- A word has group `g` exactly when it agrees with the row of mask 0xF000 for `g`. -/
theorem and_F000_eq_iff (op : Word) (g : BitVec 4) : op &&& 0xF000 = encodeNnn g 0 ↔ fieldGroup op = g := by
  rw [and_F000]
  exact ⟨fun h => by simpa using congrArg fieldGroup h, fun h => by rw [h]⟩

/-- Where every word of the instruction's group decodes to it as soon as the operands are there, its words
are those of the group with these operands. -/
theorem wordsOf_group {i : Instr} {g : BitVec 4} {operands : Word → Prop}
    (hi : fieldGroup (encode i) = g)
    (hdec : ∀ op, fieldGroup op = g → (decodeWord op = some i ↔ operands op)) :
    WordsOf i 0xF000 (encodeNnn g 0) operands := by
  intro op
  rw [and_F000_eq_iff]
  constructor
  · intro h
    have hop : fieldGroup op = g := encode_of_decodeWord h ▸ hi
    exact ⟨hop, (hdec op hop).1 h⟩
  · rintro ⟨hop, h⟩
    exact (hdec op hop).2 h

theorem wordsOf_jp (nnn : BitVec 12) : WordsOf (.jp nnn) 0xF000 0x1000 (fun op => fieldNnn op = nnn) :=
  wordsOf_group (g := 0x1) (fieldGroup_encodeNnn _ _) fun op h => by simp [decodeWord_group1 h]

theorem wordsOf_jpV0 (nnn : BitVec 12) :
    WordsOf (.jpV0 nnn) 0xF000 0xB000 (fun op => fieldNnn op = nnn) :=
  wordsOf_group (g := 0xB) (fieldGroup_encodeNnn _ _) fun op h => by simp [decodeWord_groupB h]

/-! ### What the two jumps do -/

/-- PC is no part of a frame: a write of it alone leaves every part as it was. -/
theorem onlyChanges_setPc (s : State) (w : Word) : OnlyChanges [] s (s.setPc w) := by
  intro p _
  cases p <;> simp [Unchanged]

theorem exec_jp (nnn : BitVec 12) (s : State) : exec (.jp nnn) s = .next (s.setPc (target nnn)) := rfl

theorem exec_jpV0 (nnn : BitVec 12) (s : State) :
    exec (.jpV0 nnn) s = .next (s.setPc (target nnn + (s.getV 0).zeroExtend 16)) := rfl

/-- The sum of a 12-bit address and a byte fits a word (40_sequencer_and_flow.md R129). -/
theorem target_add_byte_toNat (nnn : BitVec 12) (b : Byte) :
    (target nnn + b.zeroExtend 16).toNat = nnn.toNat + b.toNat := by
  have hn := nnn.isLt
  have hb := b.isLt
  simp only [BitVec.toNat_add, target_toNat, BitVec.toNat_setWidth]
  omega

/-- Settles O11: JP has group 1 to itself, and it writes the zero-extended address to PC alone. -/
theorem jumpSetsPc : Obligations.JumpSetsPc := fun nnn s =>
  ⟨wordsOf_jp nnn, s.setPc (target nnn), exec_jp nnn s, target_toNat nnn, onlyChanges_setPc s _⟩

/-- Settles O14: JP_V0 has group B to itself, and it writes to PC alone a sum that no carry leaves. -/
theorem indexedJumpAddsV0 : Obligations.IndexedJumpAddsV0 := fun nnn s =>
  ⟨wordsOf_jpV0 nnn, s.setPc (target nnn + (s.getV 0).zeroExtend 16), exec_jpV0 nnn s,
    target_add_byte_toNat nnn (s.getV 0), onlyChanges_setPc s _⟩

end Sys2Proof.Machine
end

section
/-! The words of a row of mask 0xF00F, and the four skips on registers (41_skip.md R141 to R144), which write
nothing but PC. -/

namespace Sys2Proof.Machine

/-! ### The words of a row that its group and its low nibble select -/

/-- A word has group `g` and low nibble `n` exactly when it agrees with the row of mask 0xF00F for them. -/
theorem and_F00F_eq_iff (op : Word) (g n : BitVec 4) :
    op &&& 0xF00F = encodeXyn g 0 0 n ↔ fieldGroup op = g ∧ fieldN op = n := by
  rw [and_F00F]
  constructor
  · intro h
    exact ⟨by simpa using congrArg fieldGroup h, by simpa using congrArg fieldN h⟩
  · rintro ⟨hg, hn⟩
    rw [hg, hn]

/-- Where every word of the instruction's group and low nibble decodes to it as soon as the operands are
there, its words are those of the group and nibble with these operands. -/
theorem wordsOf_groupNibble {i : Instr} {g n : BitVec 4} {operands : Word → Prop}
    (hg : fieldGroup (encode i) = g) (hn : fieldN (encode i) = n)
    (hdec : ∀ op, fieldGroup op = g → fieldN op = n → (decodeWord op = some i ↔ operands op)) :
    WordsOf i 0xF00F (encodeXyn g 0 0 n) operands := by
  intro op
  rw [and_F00F_eq_iff]
  constructor
  · intro h
    have henc : encode i = op := encode_of_decodeWord h
    have hgop : fieldGroup op = g := henc ▸ hg
    have hnop : fieldN op = n := henc ▸ hn
    exact ⟨⟨hgop, hnop⟩, (hdec op hgop hnop).1 h⟩
  · rintro ⟨⟨hgop, hnop⟩, h⟩
    exact (hdec op hgop hnop).2 h

/-! ### The words of the skips -/

theorem wordsOf_seImm (x : Reg) (kk : Byte) :
    WordsOf (.seImm x kk) 0xF000 0x3000 (fun op => fieldX op = x ∧ fieldKk op = kk) :=
  wordsOf_group (g := 0x3) (fieldGroup_encodeXkk _ _ _) fun op h => by simp [decodeWord_group3 h]

theorem wordsOf_sneImm (x : Reg) (kk : Byte) :
    WordsOf (.sneImm x kk) 0xF000 0x4000 (fun op => fieldX op = x ∧ fieldKk op = kk) :=
  wordsOf_group (g := 0x4) (fieldGroup_encodeXkk _ _ _) fun op h => by simp [decodeWord_group4 h]

theorem wordsOf_seReg (x y : Reg) :
    WordsOf (.seReg x y) 0xF00F 0x5000 (fun op => fieldX op = x ∧ fieldY op = y) :=
  wordsOf_groupNibble (g := 0x5) (n := 0x0) (fieldGroup_encodeXyn _ _ _ _) (fieldN_encodeXyn _ _ _ _)
    fun op hg hn => by simp [decodeWord_group5 hg, hn]

theorem wordsOf_sneReg (x y : Reg) :
    WordsOf (.sneReg x y) 0xF00F 0x9000 (fun op => fieldX op = x ∧ fieldY op = y) :=
  wordsOf_groupNibble (g := 0x9) (n := 0x0) (fieldGroup_encodeXyn _ _ _ _) (fieldN_encodeXyn _ _ _ _)
    fun op hg hn => by simp [decodeWord_group9 hg, hn]

/-! ### What the skips do -/

/-- The skip rule (41_skip.md R140) on a condition that is decided, as one write of PC. -/
theorem next_skipIf_eq {p : Prop} [Decidable p] {c : Bool} (s : State) (hc : c = true ↔ p) :
    (.next (s.skipIf c) : Result) = .next (s.setPc (if p then s.pc + 4 else s.pc + 2)) := by
  simp only [State.skipIf_eq, hc]

theorem exec_seImm (x : Reg) (kk : Byte) (s : State) :
    exec (.seImm x kk) s = .next (s.setPc (if s.getV x = kk then s.pc + 4 else s.pc + 2)) :=
  next_skipIf_eq s beq_iff_eq

theorem exec_sneImm (x : Reg) (kk : Byte) (s : State) :
    exec (.sneImm x kk) s = .next (s.setPc (if s.getV x ≠ kk then s.pc + 4 else s.pc + 2)) :=
  next_skipIf_eq s bne_iff_ne

theorem exec_seReg (x y : Reg) (s : State) :
    exec (.seReg x y) s = .next (s.setPc (if s.getV x = s.getV y then s.pc + 4 else s.pc + 2)) :=
  next_skipIf_eq s beq_iff_eq

theorem exec_sneReg (x y : Reg) (s : State) :
    exec (.sneReg x y) s = .next (s.setPc (if s.getV x ≠ s.getV y then s.pc + 4 else s.pc + 2)) :=
  next_skipIf_eq s bne_iff_ne

/-- Settles O15: SE_IMM has group 3 to itself and SNE_IMM group 4, and each writes PC alone. -/
theorem skipsOnImmediate : Obligations.SkipsOnImmediate := fun x kk s =>
  ⟨⟨wordsOf_seImm x kk, _, exec_seImm x kk s, rfl, onlyChanges_setPc s _⟩,
    ⟨wordsOf_sneImm x kk, _, exec_sneImm x kk s, rfl, onlyChanges_setPc s _⟩⟩

/-- Settles O16: SE_REG has low nibble 0 of group 5 and SNE_REG that of group 9, and each writes PC alone;
no lemma on the way needs x and y to differ. -/
theorem skipsOnRegister : Obligations.SkipsOnRegister := fun x y s =>
  ⟨⟨wordsOf_seReg x y, _, exec_seReg x y s, rfl, onlyChanges_setPc s _⟩,
    ⟨wordsOf_sneReg x y, _, exec_sneReg x y s, rfl, onlyChanges_setPc s _⟩⟩

end Sys2Proof.Machine
end

section
/-! The immediate loads and the immediate add (42_immediate.md R151 to R153): each writes one part, and PC. -/

namespace Sys2Proof.Machine

/-! ### The words of the three -/

theorem wordsOf_ldImm (x : Reg) (kk : Byte) :
    WordsOf (.ldImm x kk) 0xF000 0x6000 (fun op => fieldX op = x ∧ fieldKk op = kk) :=
  wordsOf_group (g := 0x6) (fieldGroup_encodeXkk _ _ _) fun op h => by simp [decodeWord_group6 h]

theorem wordsOf_addImm (x : Reg) (kk : Byte) :
    WordsOf (.addImm x kk) 0xF000 0x7000 (fun op => fieldX op = x ∧ fieldKk op = kk) :=
  wordsOf_group (g := 0x7) (fieldGroup_encodeXkk _ _ _) fun op h => by simp [decodeWord_group7 h]

theorem wordsOf_ldI (nnn : BitVec 12) :
    WordsOf (.ldI nnn) 0xF000 0xA000 (fun op => fieldNnn op = nnn) :=
  wordsOf_group (g := 0xA) (fieldGroup_encodeNnn _ _) fun op h => by simp [decodeWord_groupA h]

/-! ### Frames of one write -/

/-- PC is no part of a frame, so a step that ends with the default PC keeps the frame of its writes. -/
theorem OnlyChanges.advance {ps : List Part} {s t : State} (h : OnlyChanges ps s t) :
    OnlyChanges ps s t.advance := by
  intro p hp
  have hu : Unchanged s t p := h p hp
  cases p <;> exact hu

theorem onlyChanges_setV (s : State) (x : Reg) (b : Byte) : OnlyChanges [.regs] s (s.setV x b) := by
  intro p hp
  cases p with
  | regs => exact absurd (List.mem_singleton_self _) hp
  | _ => simp [Unchanged]

theorem onlyChanges_setI (s : State) (w : Word) : OnlyChanges [.index] s (s.setI w) := by
  intro p hp
  cases p with
  | index => exact absurd (List.mem_singleton_self _) hp
  | _ => simp [Unchanged]

/-! ### What the three do -/

theorem exec_ldImm (x : Reg) (kk : Byte) (s : State) :
    exec (.ldImm x kk) s = .next (s.setV x kk).advance := rfl

theorem exec_addImm (x : Reg) (kk : Byte) (s : State) :
    exec (.addImm x kk) s = .next (s.setV x (s.getV x + kk)).advance := rfl

theorem exec_ldI (nnn : BitVec 12) (s : State) :
    exec (.ldI nnn) s = .next (s.setI (target nnn)).advance := rfl

/-- The registers after a sum is written to one of them: the byte drops the carry, and VF is a register
like any other (42_immediate.md R152). -/
theorem State.toNat_getV_setV_add (s : State) (x q : Reg) (b : Byte) :
    ((s.setV x (s.getV x + b)).getV q).toNat =
      if q = x then ((s.getV x).toNat + b.toNat) % 256 else (s.getV q).toNat := by
  rw [State.getV_setV, apply_ite BitVec.toNat, BitVec.toNat_add]

/-- Settles O17: LD_IMM has group 6 to itself, and one register write is its whole effect beside PC. -/
theorem loadImmediate : Obligations.LoadImmediate := fun x kk s =>
  ⟨wordsOf_ldImm x kk, _, exec_ldImm x kk s, rfl, fun q => State.getV_setV s x q kk,
    (onlyChanges_setV s x kk).advance⟩

/-- Settles O18: ADD_IMM has group 7 to itself, and the write of a byte sum to one register is its whole
effect beside PC; no flag is written after it. -/
theorem addImmediateWrapsWithoutFlag : Obligations.AddImmediateWrapsWithoutFlag := fun x kk s =>
  ⟨wordsOf_addImm x kk, _, exec_addImm x kk s, rfl, fun q => State.toNat_getV_setV_add s x q kk,
    (onlyChanges_setV s x (s.getV x + kk)).advance⟩

/-- Settles O19: LD_I has group A to itself, and it writes the zero-extended address to I. -/
theorem loadIndexImmediate : Obligations.LoadIndexImmediate := fun nnn s =>
  ⟨wordsOf_ldI nnn, _, exec_ldI nnn s, rfl, target_toNat nnn, (onlyChanges_setI s (target nnn)).advance⟩

end Sys2Proof.Machine
end

section
/-! The words of a row of mask 0xFFFF, and CLS (45_display.md R180), which writes the framebuffer, REDRAW and
PC. -/

namespace Sys2Proof.Machine

/-! ### The word of an instruction without operands -/

/-- One word decodes to each instruction (30_encoding.md R94), so a row of mask 0xFFFF has that word alone. -/
theorem wordsOf_single {i : Instr} {w : Word} (hw : decodeWord w = some i) :
    WordsOf i 0xFFFF w (fun _ => True) := by
  intro op
  rw [and_FFFF]
  constructor
  · intro hop
    exact ⟨(encode_of_decodeWord hop).symm.trans (encode_of_decodeWord hw), trivial⟩
  · rintro ⟨rfl, -⟩
    exact hw

theorem wordsOf_cls : WordsOf .cls 0xFFFF 0x00E0 (fun _ => True) :=
  wordsOf_single (by decide)

/-! ### What CLS does -/

/-- The frame of a write of the framebuffer and of REDRAW. -/
theorem onlyChanges_setFb_setRedraw (s : State) (f : Framebuffer) (b : Bool) :
    OnlyChanges [.framebuffer, .redraw] s ((s.setFb f).setRedraw b) := by
  intro p hp
  cases p with
  | framebuffer => exact absurd List.mem_cons_self hp
  | redraw => exact absurd (List.mem_cons_of_mem _ List.mem_cons_self) hp
  | _ => simp [Unchanged]

theorem exec_cls (s : State) :
    exec .cls s = .next ((s.setFb Framebuffer.clear).setRedraw true).advance := rfl

/-- Settles O27: 0x00E0 is the one word of CLS, and the clear framebuffer and a raised REDRAW, written without
reading either, are its whole effect beside PC. -/
theorem clearBlanksAndRaisesRedraw : Obligations.ClearBlanksAndRaisesRedraw := fun s =>
  ⟨wordsOf_cls, _, exec_cls s, rfl, Framebuffer.pixel_clear, rfl,
    (onlyChanges_setFb_setRedraw s Framebuffer.clear true).advance⟩

end Sys2Proof.Machine
end

section
/-! The words of a row of mask 0xF0FF, and the moves between `V[x]` and the timers (47_timers.md R200 to
R202): each writes one part, and PC. -/

namespace Sys2Proof.Machine

/-! ### The words of a row that its group and its low byte select -/

/-- A word has group `g` and low byte `kk` exactly when it agrees with the row of mask 0xF0FF for them. -/
theorem and_F0FF_eq_iff (op : Word) (g : BitVec 4) (kk : Byte) :
    op &&& 0xF0FF = encodeXkk g 0 kk ↔ fieldGroup op = g ∧ fieldKk op = kk := by
  rw [and_F0FF]
  constructor
  · intro h
    exact ⟨by simpa using congrArg fieldGroup h, by simpa using congrArg fieldKk h⟩
  · rintro ⟨hg, hk⟩
    rw [hg, hk]

/-- Where every word of the instruction's group and low byte decodes to it as soon as the operands are
there, its words are those of the group and byte with these operands. -/
theorem wordsOf_groupByte {i : Instr} {g : BitVec 4} {kk : Byte} {operands : Word → Prop}
    (hg : fieldGroup (encode i) = g) (hk : fieldKk (encode i) = kk)
    (hdec : ∀ op, fieldGroup op = g → fieldKk op = kk → (decodeWord op = some i ↔ operands op)) :
    WordsOf i 0xF0FF (encodeXkk g 0 kk) operands := by
  intro op
  rw [and_F0FF_eq_iff]
  constructor
  · intro h
    have henc : encode i = op := encode_of_decodeWord h
    have hgop : fieldGroup op = g := henc ▸ hg
    have hkop : fieldKk op = kk := henc ▸ hk
    exact ⟨⟨hgop, hkop⟩, (hdec op hgop hkop).1 h⟩
  · rintro ⟨⟨hgop, hkop⟩, h⟩
    exact (hdec op hgop hkop).2 h

/-! ### The words of the three moves -/

theorem wordsOf_ldVxDt (x : Reg) : WordsOf (.ldVxDt x) 0xF0FF 0xF007 (fun op => fieldX op = x) :=
  wordsOf_groupByte (g := 0xF) (kk := 0x07) (fieldGroup_encodeXkk _ _ _) (fieldKk_encodeXkk _ _ _)
    fun op hg hk => by simp [decodeWord_groupF hg, decodeGroupF, hk]

theorem wordsOf_ldDtVx (x : Reg) : WordsOf (.ldDtVx x) 0xF0FF 0xF015 (fun op => fieldX op = x) :=
  wordsOf_groupByte (g := 0xF) (kk := 0x15) (fieldGroup_encodeXkk _ _ _) (fieldKk_encodeXkk _ _ _)
    fun op hg hk => by simp [decodeWord_groupF hg, decodeGroupF, hk]

theorem wordsOf_ldStVx (x : Reg) : WordsOf (.ldStVx x) 0xF0FF 0xF018 (fun op => fieldX op = x) :=
  wordsOf_groupByte (g := 0xF) (kk := 0x18) (fieldGroup_encodeXkk _ _ _) (fieldKk_encodeXkk _ _ _)
    fun op hg hk => by simp [decodeWord_groupF hg, decodeGroupF, hk]

/-! ### Frames of a write of a timer -/

theorem onlyChanges_setDt (s : State) (b : Byte) : OnlyChanges [.delay] s (s.setDt b) := by
  intro p hp
  cases p with
  | delay => exact absurd (List.mem_singleton_self _) hp
  | _ => simp [Unchanged]

theorem onlyChanges_setSt (s : State) (b : Byte) : OnlyChanges [.sound] s (s.setSt b) := by
  intro p hp
  cases p with
  | sound => exact absurd (List.mem_singleton_self _) hp
  | _ => simp [Unchanged]

/-! ### What the three moves do -/

theorem exec_ldVxDt (x : Reg) (s : State) : exec (.ldVxDt x) s = .next (s.setV x s.dt).advance := rfl

theorem exec_ldDtVx (x : Reg) (s : State) :
    exec (.ldDtVx x) s = .next (s.setDt (s.getV x)).advance := rfl

theorem exec_ldStVx (x : Reg) (s : State) :
    exec (.ldStVx x) s = .next (s.setSt (s.getV x)).advance := rfl

/-- Settles O32: each move has its low byte of group F to itself, and the write of one register or of one
timer is its whole effect beside PC. -/
theorem timerTransfers : Obligations.TimerTransfers := fun x s =>
  ⟨⟨wordsOf_ldVxDt x, _, exec_ldVxDt x s, rfl, fun q => State.getV_setV s x q s.dt,
      (onlyChanges_setV s x s.dt).advance⟩,
    ⟨wordsOf_ldDtVx x, _, exec_ldDtVx x s, rfl, rfl, (onlyChanges_setDt s (s.getV x)).advance⟩,
    ⟨wordsOf_ldStVx x, _, exec_ldStVx x s, rfl, rfl, (onlyChanges_setSt s (s.getV x)).advance⟩⟩

end Sys2Proof.Machine
end

section
/-! LD_F (48_index_memory.md R211): it writes I, and PC. -/

namespace Sys2Proof.Machine

theorem wordsOf_ldF (x : Reg) : WordsOf (.ldF x) 0xF0FF 0xF029 (fun op => fieldX op = x) :=
  wordsOf_groupByte (g := 0xF) (kk := 0x29) (fieldGroup_encodeXkk _ _ _) (fieldKk_encodeXkk _ _ _)
    fun op hg hk => by simp [decodeWord_groupF hg, decodeGroupF, hk]

theorem exec_ldF (x : Reg) (s : State) :
    exec (.ldF x) s = .next (s.setI (glyphAddress (s.getV x))).advance := rfl

/-- Settles O34: LD_F has low byte 0x29 of group F to itself, and the write of I is its whole effect beside
PC; five times a byte is at most 0x04FB, so the product does not wrap. -/
theorem loadGlyphAddress : Obligations.LoadGlyphAddress := fun x s =>
  ⟨wordsOf_ldF x, _, exec_ldF x s, rfl, glyphAddress_toNat (s.getV x),
    (onlyChanges_setI s (glyphAddress (s.getV x))).advance⟩

end Sys2Proof.Machine
end

section
/-! The words of the rows that no section above speaks of (30_encoding.md R95 to R102). -/

namespace Sys2Proof.Machine

theorem wordsOf_ret : WordsOf .ret 0xFFFF 0x00EE (fun _ => True) :=
  wordsOf_single (by decide)

theorem wordsOf_call (nnn : BitVec 12) :
    WordsOf (.call nnn) 0xF000 0x2000 (fun op => fieldNnn op = nnn) :=
  wordsOf_group (g := 0x2) (fieldGroup_encodeNnn _ _) fun op h => by simp [decodeWord_group2 h]

theorem wordsOf_rnd (x : Reg) (kk : Byte) :
    WordsOf (.rnd x kk) 0xF000 0xC000 (fun op => fieldX op = x ∧ fieldKk op = kk) :=
  wordsOf_group (g := 0xC) (fieldGroup_encodeXkk _ _ _) fun op h => by simp [decodeWord_groupC h]

theorem wordsOf_drw (x y : Reg) (n : Nat) :
    WordsOf (.drw x y n) 0xF000 0xD000
      (fun op => fieldX op = x ∧ fieldY op = y ∧ (fieldN op).toNat = n) :=
  wordsOf_group (g := 0xD) (fieldGroup_encodeXyn _ _ _ _) fun op h => by simp [decodeWord_groupD h]

/-! ### Group 8: a low nibble each -/

/-- A row of group 8: its words are those of its low nibble, as soon as the sub-decoder says so. -/
theorem wordsOf_group8 {i : Instr} {x y : Reg} {n : BitVec 4} (hi : encode i = encodeXyn 0x8 x y n)
    (hdec : ∀ op, fieldN op = n →
      (decodeGroup8 op = some i ↔ fieldX op = x ∧ fieldY op = y)) :
    WordsOf i 0xF00F (encodeXyn 0x8 0 0 n) (fun op => fieldX op = x ∧ fieldY op = y) :=
  wordsOf_groupNibble (by simp [hi]) (by simp [hi]) fun op hg hn => by
    rw [decodeWord_group8 hg, hdec op hn]

theorem wordsOf_ldReg (x y : Reg) :
    WordsOf (.ldReg x y) 0xF00F 0x8000 (fun op => fieldX op = x ∧ fieldY op = y) :=
  wordsOf_group8 (n := 0x0) rfl fun op hn => by simp [decodeGroup8, hn]

theorem wordsOf_orReg (x y : Reg) :
    WordsOf (.orReg x y) 0xF00F 0x8001 (fun op => fieldX op = x ∧ fieldY op = y) :=
  wordsOf_group8 (n := 0x1) rfl fun op hn => by simp [decodeGroup8, hn]

theorem wordsOf_andReg (x y : Reg) :
    WordsOf (.andReg x y) 0xF00F 0x8002 (fun op => fieldX op = x ∧ fieldY op = y) :=
  wordsOf_group8 (n := 0x2) rfl fun op hn => by simp [decodeGroup8, hn]

theorem wordsOf_xorReg (x y : Reg) :
    WordsOf (.xorReg x y) 0xF00F 0x8003 (fun op => fieldX op = x ∧ fieldY op = y) :=
  wordsOf_group8 (n := 0x3) rfl fun op hn => by simp [decodeGroup8, hn]

theorem wordsOf_addReg (x y : Reg) :
    WordsOf (.addReg x y) 0xF00F 0x8004 (fun op => fieldX op = x ∧ fieldY op = y) :=
  wordsOf_group8 (n := 0x4) rfl fun op hn => by simp [decodeGroup8, hn]

theorem wordsOf_sub (x y : Reg) :
    WordsOf (.sub x y) 0xF00F 0x8005 (fun op => fieldX op = x ∧ fieldY op = y) :=
  wordsOf_group8 (n := 0x5) rfl fun op hn => by simp [decodeGroup8, hn]

theorem wordsOf_shr (x y : Reg) :
    WordsOf (.shr x y) 0xF00F 0x8006 (fun op => fieldX op = x ∧ fieldY op = y) :=
  wordsOf_group8 (n := 0x6) rfl fun op hn => by simp [decodeGroup8, hn]

theorem wordsOf_subn (x y : Reg) :
    WordsOf (.subn x y) 0xF00F 0x8007 (fun op => fieldX op = x ∧ fieldY op = y) :=
  wordsOf_group8 (n := 0x7) rfl fun op hn => by simp [decodeGroup8, hn]

theorem wordsOf_shl (x y : Reg) :
    WordsOf (.shl x y) 0xF00F 0x800E (fun op => fieldX op = x ∧ fieldY op = y) :=
  wordsOf_group8 (n := 0xE) rfl fun op hn => by simp [decodeGroup8, hn]

/-! ### Groups E and F: a low byte each -/

/-- A row of mask 0xF0FF: its words are those of its group and low byte, as soon as the decoder says so. -/
theorem wordsOf_formatX {i : Instr} {x : Reg} {g : BitVec 4} {kk : Byte} (hi : encode i = encodeXkk g x kk)
    (hdec : ∀ op, fieldGroup op = g → fieldKk op = kk → (decodeWord op = some i ↔ fieldX op = x)) :
    WordsOf i 0xF0FF (encodeXkk g 0 kk) (fun op => fieldX op = x) :=
  wordsOf_groupByte (by simp [hi]) (by simp [hi]) hdec

theorem wordsOf_skp (x : Reg) : WordsOf (.skp x) 0xF0FF 0xE09E (fun op => fieldX op = x) :=
  wordsOf_formatX (g := 0xE) (kk := 0x9E) rfl fun op hg hk => by
    simp [decodeWord_groupE hg, decodeGroupE, hk]

theorem wordsOf_sknp (x : Reg) : WordsOf (.sknp x) 0xF0FF 0xE0A1 (fun op => fieldX op = x) :=
  wordsOf_formatX (g := 0xE) (kk := 0xA1) rfl fun op hg hk => by
    simp [decodeWord_groupE hg, decodeGroupE, hk]

theorem wordsOf_ldVxK (x : Reg) : WordsOf (.ldVxK x) 0xF0FF 0xF00A (fun op => fieldX op = x) :=
  wordsOf_formatX (g := 0xF) (kk := 0x0A) rfl fun op hg hk => by
    simp [decodeWord_groupF hg, decodeGroupF, hk]

theorem wordsOf_addI (x : Reg) : WordsOf (.addI x) 0xF0FF 0xF01E (fun op => fieldX op = x) :=
  wordsOf_formatX (g := 0xF) (kk := 0x1E) rfl fun op hg hk => by
    simp [decodeWord_groupF hg, decodeGroupF, hk]

theorem wordsOf_ldB (x : Reg) : WordsOf (.ldB x) 0xF0FF 0xF033 (fun op => fieldX op = x) :=
  wordsOf_formatX (g := 0xF) (kk := 0x33) rfl fun op hg hk => by
    simp [decodeWord_groupF hg, decodeGroupF, hk]

theorem wordsOf_stRegs (x : Reg) : WordsOf (.stRegs x) 0xF0FF 0xF055 (fun op => fieldX op = x) :=
  wordsOf_formatX (g := 0xF) (kk := 0x55) rfl fun op hg hk => by
    simp [decodeWord_groupF hg, decodeGroupF, hk]

theorem wordsOf_ldRegs (x : Reg) : WordsOf (.ldRegs x) 0xF0FF 0xF065 (fun op => fieldX op = x) :=
  wordsOf_formatX (g := 0xF) (kk := 0x65) rfl fun op hg hk => by
    simp [decodeWord_groupF hg, decodeGroupF, hk]

end Sys2Proof.Machine
end

section
/-! Decoder, encoder and opcode table agree (30_encoding.md R94, R103, R104). -/

namespace Sys2Proof

open Sys2Proof.Machine

/-! ### A word under its row -/

/-- The word of every instruction is one of its row (the family of Laws/PerInstr.lean as one statement). -/
theorem encode_matches_row (i : Instr) : encode i &&& (rowOf i).mask = (rowOf i).pattern := by
  cases i with
  | cls => exact Laws.MatchesRow.cls
  | ret => exact Laws.MatchesRow.ret
  | jp nnn => exact Laws.MatchesRow.jp nnn
  | call nnn => exact Laws.MatchesRow.call nnn
  | seImm x kk => exact Laws.MatchesRow.seImm x kk
  | sneImm x kk => exact Laws.MatchesRow.sneImm x kk
  | seReg x y => exact Laws.MatchesRow.seReg x y
  | ldImm x kk => exact Laws.MatchesRow.ldImm x kk
  | addImm x kk => exact Laws.MatchesRow.addImm x kk
  | ldReg x y => exact Laws.MatchesRow.ldReg x y
  | orReg x y => exact Laws.MatchesRow.orReg x y
  | andReg x y => exact Laws.MatchesRow.andReg x y
  | xorReg x y => exact Laws.MatchesRow.xorReg x y
  | addReg x y => exact Laws.MatchesRow.addReg x y
  | sub x y => exact Laws.MatchesRow.sub x y
  | shr x y => exact Laws.MatchesRow.shr x y
  | subn x y => exact Laws.MatchesRow.subn x y
  | shl x y => exact Laws.MatchesRow.shl x y
  | sneReg x y => exact Laws.MatchesRow.sneReg x y
  | ldI nnn => exact Laws.MatchesRow.ldI nnn
  | jpV0 nnn => exact Laws.MatchesRow.jpV0 nnn
  | rnd x kk => exact Laws.MatchesRow.rnd x kk
  | drw x y n => exact Laws.MatchesRow.drw x y n
  | skp x => exact Laws.MatchesRow.skp x
  | sknp x => exact Laws.MatchesRow.sknp x
  | ldVxDt x => exact Laws.MatchesRow.ldVxDt x
  | ldVxK x => exact Laws.MatchesRow.ldVxK x
  | ldDtVx x => exact Laws.MatchesRow.ldDtVx x
  | ldStVx x => exact Laws.MatchesRow.ldStVx x
  | addI x => exact Laws.MatchesRow.addI x
  | ldF x => exact Laws.MatchesRow.ldF x
  | ldB x => exact Laws.MatchesRow.ldB x
  | stRegs x => exact Laws.MatchesRow.stRegs x
  | ldRegs x => exact Laws.MatchesRow.ldRegs x

/-- The instruction of the same row whose operands are the fields of a word. -/
def Instr.withFields (op : Word) : Instr → Instr
  | .cls => .cls
  | .ret => .ret
  | .jp _ => .jp (fieldNnn op)
  | .call _ => .call (fieldNnn op)
  | .seImm _ _ => .seImm (fieldX op) (fieldKk op)
  | .sneImm _ _ => .sneImm (fieldX op) (fieldKk op)
  | .seReg _ _ => .seReg (fieldX op) (fieldY op)
  | .ldImm _ _ => .ldImm (fieldX op) (fieldKk op)
  | .addImm _ _ => .addImm (fieldX op) (fieldKk op)
  | .ldReg _ _ => .ldReg (fieldX op) (fieldY op)
  | .orReg _ _ => .orReg (fieldX op) (fieldY op)
  | .andReg _ _ => .andReg (fieldX op) (fieldY op)
  | .xorReg _ _ => .xorReg (fieldX op) (fieldY op)
  | .addReg _ _ => .addReg (fieldX op) (fieldY op)
  | .sub _ _ => .sub (fieldX op) (fieldY op)
  | .shr _ _ => .shr (fieldX op) (fieldY op)
  | .subn _ _ => .subn (fieldX op) (fieldY op)
  | .shl _ _ => .shl (fieldX op) (fieldY op)
  | .sneReg _ _ => .sneReg (fieldX op) (fieldY op)
  | .ldI _ => .ldI (fieldNnn op)
  | .jpV0 _ => .jpV0 (fieldNnn op)
  | .rnd _ _ => .rnd (fieldX op) (fieldKk op)
  | .drw _ _ _ => .drw (fieldX op) (fieldY op) (fieldN op).toNat
  | .skp _ => .skp (fieldX op)
  | .sknp _ => .sknp (fieldX op)
  | .ldVxDt _ => .ldVxDt (fieldX op)
  | .ldVxK _ => .ldVxK (fieldX op)
  | .ldDtVx _ => .ldDtVx (fieldX op)
  | .ldStVx _ => .ldStVx (fieldX op)
  | .addI _ => .addI (fieldX op)
  | .ldF _ => .ldF (fieldX op)
  | .ldB _ => .ldB (fieldX op)
  | .stRegs _ => .stRegs (fieldX op)
  | .ldRegs _ => .ldRegs (fieldX op)

/-- A word that selects the row of an instruction decodes to that row's instruction with the word's own
fields (30_encoding.md R94). -/
theorem decodeWord_of_selects {op : Word} {i : Instr} (h : (rowOf i).selects op = true) :
    decodeWord op = some (i.withFields op) := by
  have hm : op &&& (rowOf i).mask = (rowOf i).pattern := beq_iff_eq.1 h
  cases i with
  | cls => exact (wordsOf_cls op).2 ⟨hm, trivial⟩
  | ret => exact (wordsOf_ret op).2 ⟨hm, trivial⟩
  | jp => exact (wordsOf_jp _ op).2 ⟨hm, rfl⟩
  | call => exact (wordsOf_call _ op).2 ⟨hm, rfl⟩
  | seImm => exact (wordsOf_seImm _ _ op).2 ⟨hm, rfl, rfl⟩
  | sneImm => exact (wordsOf_sneImm _ _ op).2 ⟨hm, rfl, rfl⟩
  | seReg => exact (wordsOf_seReg _ _ op).2 ⟨hm, rfl, rfl⟩
  | ldImm => exact (wordsOf_ldImm _ _ op).2 ⟨hm, rfl, rfl⟩
  | addImm => exact (wordsOf_addImm _ _ op).2 ⟨hm, rfl, rfl⟩
  | ldReg => exact (wordsOf_ldReg _ _ op).2 ⟨hm, rfl, rfl⟩
  | orReg => exact (wordsOf_orReg _ _ op).2 ⟨hm, rfl, rfl⟩
  | andReg => exact (wordsOf_andReg _ _ op).2 ⟨hm, rfl, rfl⟩
  | xorReg => exact (wordsOf_xorReg _ _ op).2 ⟨hm, rfl, rfl⟩
  | addReg => exact (wordsOf_addReg _ _ op).2 ⟨hm, rfl, rfl⟩
  | sub => exact (wordsOf_sub _ _ op).2 ⟨hm, rfl, rfl⟩
  | shr => exact (wordsOf_shr _ _ op).2 ⟨hm, rfl, rfl⟩
  | subn => exact (wordsOf_subn _ _ op).2 ⟨hm, rfl, rfl⟩
  | shl => exact (wordsOf_shl _ _ op).2 ⟨hm, rfl, rfl⟩
  | sneReg => exact (wordsOf_sneReg _ _ op).2 ⟨hm, rfl, rfl⟩
  | ldI => exact (wordsOf_ldI _ op).2 ⟨hm, rfl⟩
  | jpV0 => exact (wordsOf_jpV0 _ op).2 ⟨hm, rfl⟩
  | rnd => exact (wordsOf_rnd _ _ op).2 ⟨hm, rfl, rfl⟩
  | drw => exact (wordsOf_drw _ _ _ op).2 ⟨hm, rfl, rfl, rfl⟩
  | skp => exact (wordsOf_skp _ op).2 ⟨hm, rfl⟩
  | sknp => exact (wordsOf_sknp _ op).2 ⟨hm, rfl⟩
  | ldVxDt => exact (wordsOf_ldVxDt _ op).2 ⟨hm, rfl⟩
  | ldVxK => exact (wordsOf_ldVxK _ op).2 ⟨hm, rfl⟩
  | ldDtVx => exact (wordsOf_ldDtVx _ op).2 ⟨hm, rfl⟩
  | ldStVx => exact (wordsOf_ldStVx _ op).2 ⟨hm, rfl⟩
  | addI => exact (wordsOf_addI _ op).2 ⟨hm, rfl⟩
  | ldF => exact (wordsOf_ldF _ op).2 ⟨hm, rfl⟩
  | ldB => exact (wordsOf_ldB _ op).2 ⟨hm, rfl⟩
  | stRegs => exact (wordsOf_stRegs _ op).2 ⟨hm, rfl⟩
  | ldRegs => exact (wordsOf_ldRegs _ op).2 ⟨hm, rfl⟩

/-! ### Decode of encode -/

/-- The fields of an instruction's word are its operands; the row count of DRW keeps its low four bits. -/
theorem withFields_encode {i : Instr} (h : i.wellFormed = true) : i.withFields (encode i) = i := by
  cases i with
  | drw x y n =>
    have hn : n % 16 = n := Nat.mod_eq_of_lt (of_decide_eq_true h)
    simp [Instr.withFields, encode, hn]
  | _ => simp [Instr.withFields, encode]

theorem decodeWord_encode {i : Instr} (h : i.wellFormed = true) : decodeWord (encode i) = some i := by
  rw [decodeWord_of_selects (beq_iff_eq.2 (encode_matches_row i)), withFields_encode h]

/-- A word is its high byte before its low byte (20_memory.md R64). -/
theorem wordOfBytes_extract (op : Word) : wordOfBytes (op.extractLsb' 8 8) (op.extractLsb' 0 8) = op := by
  have := op.isLt
  apply BitVec.eq_of_toNat_eq
  simp only [wordOfBytes_toNat, BitVec.extractLsb'_toNat, Nat.shiftRight_eq_div_pow]
  omega

/-- The bytes that `decodeTableWord` lays a word's number out in. -/
theorem wordOfBytes_ofNat (op : Word) :
    wordOfBytes (BitVec.ofNat 8 (op.toNat % 2 ^ 16 / 256)) (BitVec.ofNat 8 (op.toNat % 2 ^ 16)) = op := by
  have := op.isLt
  apply BitVec.eq_of_toNat_eq
  simp only [wordOfBytes_toNat, BitVec.toNat_ofNat]
  omega

/-- Settles O5: the word of an instruction selects its row, whose words decode to the row's instruction with
their own fields, and these fields are the operands; the two byte forms put the same word together again. -/
theorem decodeInvertsEncode : Obligations.DecodeInvertsEncode := by
  intro i hwf
  have hword : decodeWord (encode i) = some i := decodeWord_encode hwf
  refine ⟨hword, fun rest => ?_, ?_⟩
  · simp [encodeBytes, decodeBytes, wordOfBytes_extract, hword]
  · simp only [decodeTableWord, decodeBytes, wordOfBytes_ofNat, hword]

/-! ### Encode of decode -/

/-- Only DRW has an operand to check, and the decoder reads it from a nibble. -/
theorem wellFormed_of_decodeWord {op : Word} {i : Instr} (h : decodeWord op = some i) :
    i.wellFormed = true := by
  cases i with
  | drw x y n =>
    obtain ⟨-, -, -, rfl⟩ := (wordsOf_drw x y n op).1 h
    exact decide_eq_true (fieldN op).isLt
  | _ => rfl

/-- Settles O6: a decoded word is the word of its instruction, and a nibble is below 16. -/
theorem encodeInvertsDecode : Obligations.EncodeInvertsDecode := fun _ _ h =>
  ⟨wellFormed_of_decodeWord h, encode_of_decodeWord h⟩

/-! ### The opcode table -/

theorem rowOf_mem_opcodeTable (i : Instr) : rowOf i ∈ opcodeTable := by
  cases i <;> simp [opcodeTable, rowInstrs, rowOf]

/-- Two rows that some word selects agree on the bits that both masks keep. -/
theorem OpcodeRow.pattern_and_mask_eq {p q : OpcodeRow} {op : Word} (hp : p.selects op = true)
    (hq : q.selects op = true) : p.pattern &&& q.mask = q.pattern &&& p.mask := by
  rw [← beq_iff_eq.1 hp, ← beq_iff_eq.1 hq, BitVec.and_assoc, BitVec.and_assoc,
    BitVec.and_comm p.mask q.mask]

/-- Any two rows differ in a bit that both masks keep. -/
theorem opcodeTable_patterns_differ :
    opcodeTable.Pairwise (fun p q => p.pattern &&& q.mask ≠ q.pattern &&& p.mask) := by decide

theorem selects_of_decodeWord {op : Word} {i : Instr} (h : decodeWord op = some i) :
    (rowOf i).selects op = true :=
  beq_iff_eq.2 (encode_of_decodeWord h ▸ encode_matches_row i)

/-- A word that selects no row is illegal, and no other is (30_encoding.md R94, R104). -/
theorem decodeWord_eq_none_iff (op : Word) :
    decodeWord op = none ↔ ∀ row ∈ opcodeTable, row.selects op = false := by
  constructor
  · intro hnone row hrow
    obtain ⟨i, -, rfl⟩ := List.mem_map.1 hrow
    refine Bool.eq_false_iff.2 fun hsel => ?_
    simp [decodeWord_of_selects hsel] at hnone
  · intro hall
    refine Option.eq_none_iff_forall_ne_some.2 fun i hi => ?_
    have hsel : (rowOf i).selects op = true := selects_of_decodeWord hi
    simp [hall _ (rowOf_mem_opcodeTable i)] at hsel

/-- Settles O7: two rows that one word selects would agree where both masks look, and no two of the 34 do; a
word decodes to the instruction of the row it selects. -/
theorem opcodeTableDecides : Obligations.OpcodeTableDecides :=
  ⟨rfl,
    opcodeTable_patterns_differ.imp fun hne _ hsel => hne (OpcodeRow.pattern_and_mask_eq hsel.1 hsel.2),
    fun op => ⟨fun i hi => ⟨rowOf_mem_opcodeTable i, selects_of_decodeWord hi⟩, decodeWord_eq_none_iff op⟩⟩

/-! ### The illegal words -/

theorem ite_some_eq_none_iff {α : Type} {c : Prop} [Decidable c] {a : α} {rest : Option α} :
    (if c then some a else rest) = none ↔ ¬c ∧ rest = none := by
  by_cases hc : c <;> simp [hc]

theorem fieldGroup_eq_iff (op : Word) (g : BitVec 4) : fieldGroup op = g ↔ op.toNat / 4096 = g.toNat := by
  rw [← fieldGroup_toNat, BitVec.toNat_inj]

theorem decodeGroup0_eq_none_iff {op : Word} (hg : op.toNat / 4096 = 0) :
    decodeGroup0 op = none ↔ op ≠ 0x00E0 ∧ op ≠ 0x00EE := by
  simp only [decodeGroup0, ite_some_eq_none_iff, BitVec.toNat_eq, fieldNnn_toNat, BitVec.reduceToNat, ne_eq,
    and_true]
  omega

theorem decodeGroup8_eq_none_iff (op : Word) :
    decodeGroup8 op = none ↔ op.toNat % 16 ∈ [0x8, 0x9, 0xA, 0xB, 0xC, 0xD, 0xF] := by
  simp only [decodeGroup8, ite_some_eq_none_iff, BitVec.toNat_eq, fieldN_toNat, BitVec.reduceToNat,
    List.mem_cons, List.not_mem_nil, and_true, or_false]
  omega

theorem decodeGroupE_eq_none_iff (op : Word) :
    decodeGroupE op = none ↔ op.toNat % 256 ∉ [0x9E, 0xA1] := by
  simp [decodeGroupE, ite_some_eq_none_iff, BitVec.toNat_eq, fieldKk_toNat]

theorem decodeGroupF_eq_none_iff (op : Word) :
    decodeGroupF op = none ↔
      op.toNat % 256 ∉ [0x07, 0x0A, 0x15, 0x18, 0x1E, 0x29, 0x33, 0x55, 0x65] := by
  simp [decodeGroupF, ite_some_eq_none_iff, BitVec.toNat_eq, fieldKk_toNat]

/-- Settles O8: the cases are the sixteen groups in order; in each the other families are empty, and what
is left is what the group's own decoder rejects. -/
theorem illegalWordsAreExactlyThese : Obligations.IllegalWordsAreExactlyThese := by
  intro op
  obtain hg | hg | hg | hg | hg | hg | hg | hg | hg | hg | hg | hg | hg | hg | hg | hg :=
    fieldGroup_cases op <;> have hn := (fieldGroup_eq_iff op _).1 hg
  · simp [decodeWord_group0 hg, decodeGroup0_eq_none_iff hn, hn]
  · simp [decodeWord_group1 hg, hn]
  · simp [decodeWord_group2 hg, hn]
  · simp [decodeWord_group3 hg, hn]
  · simp [decodeWord_group4 hg, hn]
  · simp [decodeWord_group5 hg, BitVec.toNat_eq, fieldN_toNat, hn]
  · simp [decodeWord_group6 hg, hn]
  · simp [decodeWord_group7 hg, hn]
  · simp [decodeWord_group8 hg, decodeGroup8_eq_none_iff, hn]
  · simp [decodeWord_group9 hg, BitVec.toNat_eq, fieldN_toNat, hn]
  · simp [decodeWord_groupA hg, hn]
  · simp [decodeWord_groupB hg, hn]
  · simp [decodeWord_groupC hg, hn]
  · simp [decodeWord_groupD hg, hn]
  · simp [decodeWord_groupE hg, decodeGroupE_eq_none_iff, hn]
  · simp [decodeWord_groupF hg, decodeGroupF_eq_none_iff, hn]

/-- Settles O10: the decoder runs on each word. -/
theorem vectorWordsDecode : Obligations.VectorWordsDecode := by
  unfold Obligations.VectorWordsDecode
  decide

end Sys2Proof
end

section
/-! Everything an instruction can do (40_sequencer_and_flow.md R123, 60_exceptions.md R227): the fault it
raises in a state, if any, and the state it leaves when it raises none. `exec_eq` ties both to `exec`; the
statements about every instruction go through them. -/

namespace Sys2Proof.Machine

/-! ### The fault of an instruction -/

/-- The fault of n reads from I on (20_memory.md R62). -/
def State.readFault (s : State) (n : Nat) : Option FaultRecord :=
  if n ≠ 0 ∧ 0x1000 < s.i.toNat + n then some (.addressError (max s.i.toNat 0x1000) .read s.pc)
  else none

/-- The fault of n writes from I on, n not 0: the font before the range (20_memory.md R63). -/
def State.storeFault (s : State) (n : Nat) : Option FaultRecord :=
  if s.i.toNat ≤ 0x04F then some (.addressError s.i.toNat .fontWrite s.pc)
  else if 0x1000 < s.i.toNat + n then some (.addressError (max s.i.toNat 0x1000) .write s.pc)
  else none

/-- The fault of a key test (46_keypad.md R190). -/
def State.keyFault (s : State) (x : Reg) : Option FaultRecord :=
  if 15 < (s.getV x).toNat then some (.keyIndexError (s.getV x) s.pc) else none

/-- The fault that an instruction raises in a state, if any (60_exceptions.md R227). -/
def faultOf (s : State) : Instr → Option FaultRecord
  | .call _ => if s.sp.val = 16 then some (.stackOverflow s.pc) else none
  | .ret => if s.sp.val = 0 then some (.stackUnderflow s.pc) else none
  | .drw _ _ n => s.readFault n
  | .ldRegs x => s.readFault (x.val + 1)
  | .ldB _ => s.storeFault 3
  | .stRegs x => s.storeFault (x.val + 1)
  | .skp x | .sknp x => s.keyFault x
  | _ => none

/-! ### The state of an instruction that raises none -/

/-- The entry that a return goes back to; with none in use, which is a fault, entry 0. -/
def State.topEntry (s : State) : Word := s.stk.get ⟨s.sp.val - 1, by omega⟩

/-- The stack after a push; with sixteen entries in use, which is a fault, no entry is written. -/
def State.pushed (s : State) (w : Word) : State :=
  s.setStack (s.stk.setIfInBounds s.sp.val w) (Fin.ofNat 17 (s.sp.val + 1))

/-- The stack after a pop. -/
def State.popped (s : State) : State := s.setStack s.stk ⟨s.sp.val - 1, by omega⟩

/-- Is the key of the low nibble of `V[x]` pressed? In the domain of a key test that is key `V[x]`. -/
def State.keyDown (s : State) (x : Reg) : Bool := s.keyPressed (Fin.ofNat 16 (s.getV x).toNat)

/-- The n bytes from I on. -/
def State.bytesAtIndex (s : State) (n : Nat) : List Byte :=
  (List.range n).map fun k => s.byteAt (s.i.toNat + k)

/-- What a sprite of n bytes at `V[x]`, `V[y]` makes of the framebuffer, and whether it collides. -/
def State.drawn (s : State) (x y : Reg) (n : Nat) : Drawing :=
  drawRows (s.getV x).toNat (s.getV y).toNat 0 (s.bytesAtIndex n) ⟨s.fb, false⟩

/-- Memory with the bytes stored from I on. -/
def State.storedAtIndex (s : State) (bs : List Byte) : Memory := s.mem.storeRun .fault s.i.toNat bs

/-- The state that an instruction leaves when it raises no fault. -/
def completed (s : State) : Instr → State
  | .cls => ((s.setFb Framebuffer.clear).setRedraw true).advance
  | .ret => s.popped.setPc (s.topEntry + 2)
  | .jp nnn => s.setPc (target nnn)
  | .call nnn => (s.pushed s.pc).setPc (target nnn)
  | .seImm x kk => s.setPc (if s.getV x = kk then s.pc + 4 else s.pc + 2)
  | .sneImm x kk => s.setPc (if s.getV x ≠ kk then s.pc + 4 else s.pc + 2)
  | .seReg x y => s.setPc (if s.getV x = s.getV y then s.pc + 4 else s.pc + 2)
  | .sneReg x y => s.setPc (if s.getV x ≠ s.getV y then s.pc + 4 else s.pc + 2)
  | .skp x => s.setPc (if s.keyDown x = true then s.pc + 4 else s.pc + 2)
  | .sknp x => s.setPc (if s.keyDown x = false then s.pc + 4 else s.pc + 2)
  | .ldImm x kk => (s.setV x kk).advance
  | .addImm x kk => (s.setV x (s.getV x + kk)).advance
  | .ldReg x y => (s.setV x (s.getV y)).advance
  | .orReg x y => (s.setV x (s.getV x ||| s.getV y)).advance
  | .andReg x y => (s.setV x (s.getV x &&& s.getV y)).advance
  | .xorReg x y => (s.setV x (s.getV x ^^^ s.getV y)).advance
  | .ldVxDt x => (s.setV x s.dt).advance
  | .addReg x y => s.writeWithFlag x (s.getV x + s.getV y) (carryOut (s.getV x) (s.getV y))
  | .sub x y => s.writeWithFlag x (s.getV x - s.getV y) (noBorrow (s.getV x) (s.getV y))
  | .shr x _ => s.writeWithFlag x (s.getV x >>> 1) (shiftedOutLow (s.getV x))
  | .subn x y => s.writeWithFlag x (s.getV y - s.getV x) (noBorrow (s.getV y) (s.getV x))
  | .shl x _ => s.writeWithFlag x (s.getV x <<< 1) (shiftedOutHigh (s.getV x))
  | .rnd x kk => ((s.setV x (s.draw8 &&& kk)).setDraws (s.draws + 1)).advance
  | .drw x y n =>
    (((s.setFb (s.drawn x y n).fb).setFlag (s.drawn x y n).collision).setRedraw true).advance
  | .ldVxK x => (s.setRun (.awaitingKey x)).advance
  | .ldDtVx x => (s.setDt (s.getV x)).advance
  | .ldStVx x => (s.setSt (s.getV x)).advance
  | .ldI nnn => (s.setI (target nnn)).advance
  | .jpV0 nnn => s.setPc (target nnn + (s.getV 0).zeroExtend 16)
  | .addI x =>
    ((s.setI (BitVec.ofNat 16 (s.i.toNat + (s.getV x).toNat))).setFlag
      (indexOverflow 0x00FF s.i (s.getV x))).advance
  | .ldF x => (s.setI (glyphAddress (s.getV x))).advance
  | .ldB x => (s.setMem (s.storedAtIndex (decimalDigits (s.getV x)))).advance
  | .stRegs x => ((s.setMem (s.storedAtIndex (s.regsUpTo x))).setI (s.indexPast (x.val + 1))).advance
  | .ldRegs x =>
    ((s.setRegs (writeRegsFrom s.v 0 (s.bytesAtIndex (x.val + 1)))).setI
      (s.indexPast (x.val + 1))).advance

/-! ### What `exec` answers -/

/-- The state after an instruction: RUN alone changed by its fault, or the instruction completed. -/
def outcome (s : State) (i : Instr) : State :=
  (faultOf s i).elim (completed s i) fun f => s.setRun (.faulted f)

theorem outcome_of_none {s : State} {i : Instr} (h : faultOf s i = none) : outcome s i = completed s i := by
  simp [outcome, h]

theorem outcome_of_some {s : State} {i : Instr} {f : FaultRecord} (h : faultOf s i = some f) :
    outcome s i = s.setRun (.faulted f) := by simp [outcome, h]

theorem raise_eq_outcome {s : State} {i : Instr} {f : FaultRecord} (h : faultOf s i = some f) :
    raise f s = .next (outcome s i) := by rw [outcome_of_some h, raise]

theorem next_completed_eq_outcome {s : State} {i : Instr} (h : faultOf s i = none) :
    (.next (completed s i) : Result) = .next (outcome s i) := by rw [outcome_of_none h]

theorem exec_ret_eq (s : State) : exec .ret s = .next (outcome s .ret) := by
  change execRet s = _
  by_cases h : s.sp.val = 0
  · rw [execRet, State.pop_empty s h]
    exact raise_eq_outcome (if_pos h)
  · rw [execRet, State.pop_of_pos s (by omega)]
    exact next_completed_eq_outcome (i := .ret) (if_neg h)

/-- A push that has room, as the model writes it. -/
theorem State.pushed_of_lt (s : State) (w : Word) (h : s.sp.val < 16) :
    s.pushed w = s.setStack (s.stk.set s.sp.val w h) ⟨s.sp.val + 1, by omega⟩ := by
  have hsp : Fin.ofNat 17 (s.sp.val + 1) = ⟨s.sp.val + 1, by omega⟩ :=
    Fin.ext (Nat.mod_eq_of_lt (by omega))
  have hstk : s.stk.setIfInBounds s.sp.val w = s.stk.set s.sp.val w h :=
    Vector.ext fun j hj => by rw [Vector.getElem_setIfInBounds, Vector.getElem_set]
  rw [State.pushed, hsp, hstk]

theorem exec_call_eq (nnn : BitVec 12) (s : State) :
    exec (.call nnn) s = .next (outcome s (.call nnn)) := by
  change execCall nnn s = _
  by_cases h : s.sp.val = 16
  · rw [execCall, State.push_full s _ h]
    exact raise_eq_outcome (if_pos h)
  · have hlt : s.sp.val < 16 := by omega
    rw [execCall, State.push_of_lt s _ hlt, ← State.pushed_of_lt s _ hlt]
    exact next_completed_eq_outcome (i := .call nnn) (if_neg h)

/-- A run of reads from I on: the fault that `readFault` says, or the bytes. -/
theorem readRun_atIndex (s : State) (n : Nat) :
    readRun Params.oobPolicy s s.indexAddress n =
      (s.readFault n).elim (.ok (s.bytesAtIndex n)) .error := by
  rw [Params.oobPolicy, State.indexAddress, State.readFault]
  by_cases h : n ≠ 0 ∧ 0x1000 < s.i.toNat + n
  · rw [readRun_error s _ _ h.1 h.2, if_pos h, Option.elim]
  · rw [readRun_ok s _ _ (by omega), if_neg h, Option.elim, State.bytesAtIndex]

theorem exec_drw_eq (x y : Reg) (n : Nat) (s : State) :
    exec (.drw x y n) s = .next (outcome s (.drw x y n)) := by
  change execDrw x y n s = _
  rw [execDrw, readRun_atIndex]
  cases h : s.readFault n with
  | none => exact next_completed_eq_outcome (i := .drw x y n) h
  | some f => exact raise_eq_outcome (i := .drw x y n) h

theorem exec_ldRegs_eq (x : Reg) (s : State) : exec (.ldRegs x) s = .next (outcome s (.ldRegs x)) := by
  change execLdRegs x s = _
  rw [execLdRegs, readRun_atIndex]
  cases h : s.readFault (x.val + 1) with
  | none => exact next_completed_eq_outcome (i := .ldRegs x) h
  | some f => exact raise_eq_outcome (i := .ldRegs x) h

/-- A run of writes from I on: the fault that `storeFault` says, or the bytes stored. -/
theorem storeBytes_atIndex (s : State) {bs : List Byte} (hne : bs ≠ []) :
    storeBytes Params.oobPolicy Params.fontProtect s.indexAddress bs s =
      (s.storeFault bs.length).elim (.ok (s.setMem (s.storedAtIndex bs))) .error := by
  rw [Params.oobPolicy, Params.fontProtect, State.indexAddress, storeBytes_eq, if_neg hne, State.storeFault]
  by_cases hfont : s.i.toNat ≤ 0x04F
  · simp only [if_pos hfont, Option.elim]
  · by_cases hrange : 0x1000 < s.i.toNat + bs.length
    · simp only [if_neg hfont, if_pos hrange, Option.elim]
    · simp only [if_neg hfont, if_neg hrange, Option.elim, State.storedAtIndex]

theorem exec_ldB_eq (x : Reg) (s : State) : exec (.ldB x) s = .next (outcome s (.ldB x)) := by
  change execLdB x s = _
  rw [execLdB, storeBytes_atIndex s (decimalDigits_ne_nil _), decimalDigits_length]
  cases h : s.storeFault 3 with
  | none => exact next_completed_eq_outcome (i := .ldB x) h
  | some f => exact raise_eq_outcome (i := .ldB x) h

theorem exec_stRegs_eq (x : Reg) (s : State) : exec (.stRegs x) s = .next (outcome s (.stRegs x)) := by
  change execStRegs x s = _
  rw [execStRegs, storeBytes_atIndex s (s.regsUpTo_ne_nil x), State.regsUpTo_length]
  cases h : s.storeFault (x.val + 1) with
  | none => exact next_completed_eq_outcome (i := .stRegs x) h
  | some f => exact raise_eq_outcome (i := .stRegs x) h

/-- The key of a key test in its domain is the one `keyDown` looks at. -/
theorem keyNumber_eq (k : Byte) :
    keyNumber Params.keyIndexPolicy k = if 15 < k.toNat then none else some (Fin.ofNat 16 k.toNat) := by
  rw [Params.keyIndexPolicy]
  by_cases h : 15 < k.toNat
  · rw [keyNumber_of_ge k h, if_pos h]
  · rw [keyNumber_of_lt k (by omega), if_neg h]
    exact congrArg some (Fin.ext (Nat.mod_eq_of_lt (by omega)).symm)

theorem exec_skp_eq (x : Reg) (s : State) : exec (.skp x) s = .next (outcome s (.skp x)) := by
  change execSkp x s = _
  rw [execSkp, keyNumber_eq]
  by_cases h : 15 < (s.getV x).toNat
  · rw [if_pos h]
    exact raise_eq_outcome (i := .skp x) (if_pos h)
  · rw [if_neg h]
    exact (next_skipIf_eq s Iff.rfl).trans (next_completed_eq_outcome (i := .skp x) (if_neg h))

theorem exec_sknp_eq (x : Reg) (s : State) : exec (.sknp x) s = .next (outcome s (.sknp x)) := by
  change execSknp x s = _
  rw [execSknp, keyNumber_eq]
  by_cases h : 15 < (s.getV x).toNat
  · rw [if_pos h]
    exact raise_eq_outcome (i := .sknp x) (if_pos h)
  · rw [if_neg h]
    exact (next_skipIf_eq s (iff_of_eq (Bool.not_eq_true' _))).trans
      (next_completed_eq_outcome (i := .sknp x) (if_neg h))

/-- Every instruction in every state answers its outcome: the eight that can fault are above, the skips are
one write of PC, and the others are their equations. -/
theorem exec_eq (i : Instr) (s : State) : exec i s = .next (outcome s i) := by
  cases i with
  | ret => exact exec_ret_eq s
  | call nnn => exact exec_call_eq nnn s
  | drw x y n => exact exec_drw_eq x y n s
  | ldRegs x => exact exec_ldRegs_eq x s
  | ldB x => exact exec_ldB_eq x s
  | stRegs x => exact exec_stRegs_eq x s
  | skp x => exact exec_skp_eq x s
  | sknp x => exact exec_sknp_eq x s
  | seImm x kk => exact exec_seImm x kk s
  | sneImm x kk => exact exec_sneImm x kk s
  | seReg x y => exact exec_seReg x y s
  | sneReg x y => exact exec_sneReg x y s
  | _ => rfl

theorem exec_of_none {i : Instr} {s : State} (h : faultOf s i = none) : exec i s = .next (completed s i) := by
  rw [exec_eq, outcome_of_none h]

theorem exec_of_some {i : Instr} {s : State} {f : FaultRecord} (h : faultOf s i = some f) :
    exec i s = .next { s with run := .faulted f } := by
  rw [exec_eq, outcome_of_some h]
  rfl

/-- A next state of `exec` is one or the other. -/
theorem exec_next_cases {i : Instr} {s t : State} (h : exec i s = .next t) :
    (∃ f, faultOf s i = some f ∧ t = s.setRun (.faulted f)) ∨
    (faultOf s i = none ∧ t = completed s i) := by
  rw [exec_eq] at h
  cases h
  cases hf : faultOf s i with
  | none => exact .inr ⟨rfl, outcome_of_none hf⟩
  | some f => exact .inl ⟨f, rfl, outcome_of_some hf⟩

end Sys2Proof.Machine
end

section
/-! The step, one lemma per branch of the cycle driver (40_sequencer_and_flow.md R120 to R122), and the
statements about it that need no more of an instruction than its outcome. -/

namespace Sys2Proof.Machine

/-! ### The branches of a step -/

/-- The gate on RUN: a stopped core stands still (40_sequencer_and_flow.md R120). -/
theorem step_of_stopped {s : State} (hr : s.run ≠ .running) : step s = .next s := by
  obtain ⟨-, h⟩ | ⟨hrun, -⟩ | ⟨hrun, -⟩ | ⟨hrun, -⟩ := step_cases (s := s) rfl
  · exact h
  all_goals exact absurd hrun hr

theorem step_of_fetchFault {s : State} (hr : s.run = .running) (hpc : 0xFFE < s.pc.toNat) :
    step s = .next { s with run := .faulted (.addressError s.pc.toNat .fetch s.pc) } := by
  obtain ⟨hrun, -⟩ | ⟨-, -, h⟩ | ⟨-, hle, -⟩ | ⟨-, hle, -⟩ := step_cases (s := s) rfl
  · exact absurd hr hrun
  · exact h
  all_goals exact absurd hle (by omega)

theorem step_of_illegal {s : State} (hr : s.run = .running) (hpc : s.pc.toNat ≤ 0xFFE)
    (hd : decodeWord s.wordAtPc = none) :
    step s = .next { s with run := .faulted (.decodeError s.wordAtPc s.pc) } := by
  obtain ⟨hrun, -⟩ | ⟨-, hlt, -⟩ | ⟨-, -, -, h⟩ | ⟨-, -, j, hj, -⟩ := step_cases (s := s) rfl
  · exact absurd hr hrun
  · exact absurd hlt (by omega)
  · exact h
  · cases hd.symm.trans hj

theorem step_of_decoded {s : State} {i : Instr} (hr : s.run = .running) (hpc : s.pc.toNat ≤ 0xFFE)
    (hd : decodeWord s.wordAtPc = some i) : step s = exec i s := by
  obtain ⟨hrun, -⟩ | ⟨-, hlt, -⟩ | ⟨-, -, hnone, -⟩ | ⟨-, -, j, hj, h⟩ := step_cases (s := s) rfl
  · exact absurd hr hrun
  · exact absurd hlt (by omega)
  · cases hnone.symm.trans hd
  · cases hj.symm.trans hd
    exact h

/-- Settles O2: the word at PC is these two bytes, and the step at a decoded word is its `exec`. -/
theorem stepRunsTheDecodedInstruction : Obligations.StepRunsTheDecodedInstruction :=
  fun _ _ hr hpc hd => step_of_decoded hr hpc hd

/-- Settles O3: a clause per branch of the step; the host operation passes the answer on. -/
theorem cycleDriverGatesFetchesAndDecodes : Obligations.CycleDriverGatesFetchesAndDecodes := fun _ =>
  ⟨fun _ hr => step_of_stopped (by simp [hr]), fun _ hr => step_of_stopped (by simp [hr]),
    step_of_fetchFault, step_of_illegal, fun hr hpc _ hd => step_of_decoded hr hpc hd,
    fun b _ h => Session.apply_step b h⟩

/-- Settles O4: every instruction answers its outcome, and the other branches of a step answer a state. -/
theorem everyStepAndInstructionAnswers : Obligations.EveryStepAndInstructionAnswers := by
  intro s
  refine ⟨?_, fun i => ⟨outcome s i, exec_eq i s⟩⟩
  obtain ⟨-, h⟩ | ⟨-, -, h⟩ | ⟨-, -, -, h⟩ | ⟨-, -, i, -, h⟩ := step_cases (s := s) rfl
  · exact ⟨s, h⟩
  · exact ⟨_, h⟩
  · exact ⟨_, h⟩
  · exact ⟨outcome s i, h.trans (exec_eq i s)⟩

/-! ### The end of a run -/

/-- The word `0x1000 + PC` of a PC that can be fetched from is the jump to that address. -/
theorem decodeWord_selfJump {pc : Word} (hpc : pc.toNat ≤ 0xFFE) :
    ∃ nnn, decodeWord (0x1000 + pc) = some (.jp nnn) ∧ target nnn = pc := by
  have hword : (0x1000 + pc : Word).toNat = 0x1000 + pc.toNat := by
    simp only [BitVec.toNat_add, BitVec.reduceToNat]
    omega
  have hgroup : fieldGroup (0x1000 + pc) = 0x1 :=
    (fieldGroup_eq_iff _ _).2 (by simp only [hword, BitVec.reduceToNat]; omega)
  refine ⟨fieldNnn (0x1000 + pc), decodeWord_group1 hgroup, BitVec.eq_of_toNat_eq ?_⟩
  rw [target_toNat, fieldNnn_toNat, hword]
  omega

/-- Settles O48: the word decodes to the jump to PC, which writes to PC what PC holds. -/
theorem endedRunIsAFixedPoint : Obligations.EndedRunIsAFixedPoint := by
  rintro s ⟨hr, hpc, hword⟩
  obtain ⟨nnn, hd, htarget⟩ := decodeWord_selfJump hpc
  calc step s = exec (.jp nnn) s := step_of_decoded hr hpc (hword ▸ hd)
    _ = .next (s.setPc (target nnn)) := exec_jp nnn s
    _ = .next s := by rw [htarget]; rfl

end Sys2Proof.Machine
end

section
/-! Faults (60_exceptions.md R220 to R228): what an instruction's fault says and which instruction has it,
that it changes RUN alone, and what else changes RUN. -/

namespace Sys2Proof.Machine

/-! ### The faults of the operations -/

theorem readFault_eq_some {s : State} {n : Nat} {f : FaultRecord} (h : s.readFault n = some f) :
    f = .addressError (max s.i.toNat 0x1000) .read s.pc := by
  obtain ⟨-, h⟩ := Option.ite_none_right_eq_some.1 h
  exact (Option.some.inj h).symm

theorem storeFault_eq_some {s : State} {n : Nat} {f : FaultRecord} (h : s.storeFault n = some f) :
    (s.i.toNat ≤ 0x04F ∧ f = .addressError s.i.toNat .fontWrite s.pc) ∨
      f = .addressError (max s.i.toNat 0x1000) .write s.pc := by
  unfold State.storeFault at h
  split at h
  · exact .inl ⟨‹_›, (Option.some.inj h).symm⟩
  · obtain ⟨-, h⟩ := Option.ite_none_right_eq_some.1 h
    exact .inr (Option.some.inj h).symm

theorem keyFault_eq_some {s : State} {x : Reg} {f : FaultRecord} (h : s.keyFault x = some f) :
    15 < (s.getV x).toNat ∧ f = .keyIndexError (s.getV x) s.pc := by
  obtain ⟨hk, h⟩ := Option.ite_none_right_eq_some.1 h
  exact ⟨hk, (Option.some.inj h).symm⟩

/-- Which instruction has which fault, with the condition of 60_exceptions.md R220 in the record. -/
theorem faultOf_cases {s : State} {i : Instr} {f : FaultRecord} (h : faultOf s i = some f) :
    (f = .stackOverflow s.pc ∧ s.sp.val = 16 ∧ ∃ nnn, i = .call nnn) ∨
    (f = .stackUnderflow s.pc ∧ s.sp.val = 0 ∧ i = .ret) ∨
    (∃ a, f = .addressError a .read s.pc ∧ 0xFFF < a ∧
      ((∃ x y n, i = .drw x y n) ∨ ∃ x, i = .ldRegs x)) ∨
    (∃ a, (f = .addressError a .write s.pc ∧ 0xFFF < a ∨
        f = .addressError a .fontWrite s.pc ∧ a ≤ 0x04F) ∧
      ((∃ x, i = .ldB x) ∨ ∃ x, i = .stRegs x)) ∨
    (∃ x, f = .keyIndexError (s.getV x) s.pc ∧ 15 < (s.getV x).toNat ∧
      (i = .skp x ∨ i = .sknp x)) := by
  have hmax : 0xFFF < max s.i.toNat 0x1000 := by omega
  have hstore : ∀ n, s.storeFault n = some f →
      ∃ a, f = .addressError a .write s.pc ∧ 0xFFF < a ∨
        f = .addressError a .fontWrite s.pc ∧ a ≤ 0x04F := by
    intro n hn
    obtain ⟨hfont, hf⟩ | hf := storeFault_eq_some hn
    · exact ⟨_, .inr ⟨hf, hfont⟩⟩
    · exact ⟨_, .inl ⟨hf, hmax⟩⟩
  cases i with
  | call nnn =>
    obtain ⟨hsp, h⟩ := Option.ite_none_right_eq_some.1 h
    exact .inl ⟨(Option.some.inj h).symm, hsp, nnn, rfl⟩
  | ret =>
    obtain ⟨hsp, h⟩ := Option.ite_none_right_eq_some.1 h
    exact .inr (.inl ⟨(Option.some.inj h).symm, hsp, rfl⟩)
  | drw x y n => exact .inr (.inr (.inl ⟨_, readFault_eq_some h, hmax, .inl ⟨x, y, n, rfl⟩⟩))
  | ldRegs x => exact .inr (.inr (.inl ⟨_, readFault_eq_some h, hmax, .inr ⟨x, rfl⟩⟩))
  | ldB x =>
    obtain ⟨a, hf⟩ := hstore _ h
    exact .inr (.inr (.inr (.inl ⟨a, hf, .inl ⟨x, rfl⟩⟩)))
  | stRegs x =>
    obtain ⟨a, hf⟩ := hstore _ h
    exact .inr (.inr (.inr (.inl ⟨a, hf, .inr ⟨x, rfl⟩⟩)))
  | skp x =>
    obtain ⟨hk, hf⟩ := keyFault_eq_some h
    exact .inr (.inr (.inr (.inr ⟨x, hf, hk, .inl rfl⟩)))
  | sknp x =>
    obtain ⟨hk, hf⟩ := keyFault_eq_some h
    exact .inr (.inr (.inr (.inr ⟨x, hf, hk, .inr rfl⟩)))
  | _ => cases h

/-- The record of an instruction's fault holds PC, and its condition holds. -/
theorem faultOf_truthful {s : State} {i : Instr} {f : FaultRecord} (h : faultOf s i = some f) :
    f.pc = s.pc ∧ f.Justified s := by
  obtain ⟨rfl, hsp, -⟩ | ⟨rfl, hsp, -⟩ | ⟨a, rfl, ha, -⟩ | ⟨a, ⟨rfl, ha⟩ | ⟨rfl, ha⟩, -⟩ |
    ⟨x, rfl, hk, -⟩ := faultOf_cases h
  · exact ⟨rfl, hsp⟩
  · exact ⟨rfl, hsp⟩
  · exact ⟨rfl, ha⟩
  · exact ⟨rfl, ha⟩
  · exact ⟨rfl, ha⟩
  · exact ⟨rfl, hk⟩

/-! ### What changes RUN -/

/-- A completed instruction leaves RUN alone, or is the wait for a key (10_state.md R34). -/
theorem completed_run (s : State) (i : Instr) :
    (completed s i).run = s.run ∨ ∃ x, i = .ldVxK x ∧ (completed s i).run = .awaitingKey x := by
  cases i with
  | ldVxK x => exact .inr ⟨x, rfl, rfl⟩
  | _ => exact .inl rfl

/-- An instruction that a running core faults on raises its own fault, and changes RUN alone. -/
theorem faultOf_of_exec_faulted {s t : State} {i : Instr} {f : FaultRecord} (hr : s.run = .running)
    (h : exec i s = .next t) (ht : t.run = .faulted f) :
    faultOf s i = some f ∧ t = { s with run := .faulted f } := by
  obtain ⟨g, hg, rfl⟩ | ⟨-, rfl⟩ := exec_next_cases h
  · cases ht
    exact ⟨hg, rfl⟩
  · obtain hrun | ⟨x, -, hrun⟩ := completed_run s i
    · simp [hrun, hr] at ht
    · simp [hrun] at ht

/-- A step of a running core that faults changes RUN alone; the record holds PC and a true condition. -/
theorem step_faulted {s t : State} {f : FaultRecord} (hr : s.run = .running) (h : step s = .next t)
    (ht : t.run = .faulted f) : t = { s with run := .faulted f } ∧ f.pc = s.pc ∧ f.Justified s := by
  obtain ⟨hrun, -⟩ | ⟨-, hpc, he⟩ | ⟨-, -, hd, he⟩ | ⟨-, -, i, -, he⟩ := step_cases h
  · exact absurd hr hrun
  · cases he
    cases ht
    exact ⟨rfl, rfl, rfl, hpc⟩
  · cases he
    cases ht
    exact ⟨rfl, rfl, hd⟩
  · obtain ⟨hf, rfl⟩ := faultOf_of_exec_faulted hr he.symm ht
    exact ⟨rfl, faultOf_truthful hf⟩

/-- The condition of a record does not read RUN. -/
theorem FaultRecord.justified_setRun (s : State) (r : RunState) (f : FaultRecord) :
    f.Justified (s.setRun r) ↔ f.Justified s := by
  cases f with
  | addressError a kind pc => cases kind <;> exact Iff.rfl
  | _ => exact Iff.rfl

/-- Settles O39: a step that faults changes RUN alone and records PC; the gate on RUN does the rest. -/
theorem faultsArePrecise : Obligations.FaultsArePrecise := by
  intro s t f hr h ht
  obtain ⟨heq, hpc, -⟩ := step_faulted hr h ht
  exact ⟨heq, hpc, step_of_stopped (by simp [ht])⟩

/-- Settles O40: the record is the instruction's own fault; the five families are the eight instructions that
have one. -/
theorem eachInstructionRaisesItsOwnFault : Obligations.EachInstructionRaisesItsOwnFault := by
  intro i s t f hr h ht
  obtain ⟨hf, -⟩ := faultOf_of_exec_faulted hr h ht
  obtain ⟨hf, -, hi⟩ | ⟨hf, -, hi⟩ | ⟨a, hf, -, hi⟩ | ⟨a, hf, hi⟩ | ⟨x, hf, -, hi⟩ := faultOf_cases hf
  · exact .inl ⟨hf, hi⟩
  · exact .inr (.inl ⟨hf, hi⟩)
  · exact .inr (.inr (.inl ⟨a, hf, hi⟩))
  · exact .inr (.inr (.inr (.inl ⟨a, hf.imp And.left And.left, hi⟩)))
  · exact .inr (.inr (.inr (.inr ⟨x, hf, hi⟩)))

/-- Settles O41: a stopped core keeps its record and its state; a running core that faults records PC and a
condition that holds, and neither PC nor what the condition reads changes with RUN. -/
theorem stepKeepsFaultRecordsTruthful : Obligations.StepKeepsFaultRecordsTruthful := by
  intro s t hs h f hf
  by_cases hr : s.run = .running
  · obtain ⟨rfl, hpc, hjust⟩ := step_faulted hr h hf
    exact ⟨hpc, (FaultRecord.justified_setRun s (.faulted f) f).2 hjust⟩
  · rw [step_of_stopped hr] at h
    cases h
    exact hs f hf

end Sys2Proof.Machine
end

section
/-! Frames (10_state.md R35): what each write leaves, how frames compose, and the frame of every
instruction. -/

namespace Sys2Proof.Machine

/-! ### Frames compose -/

theorem Unchanged.refl (s : State) (p : Part) : Unchanged s s p := by
  cases p <;> simp [Unchanged]

theorem Unchanged.trans {s t u : State} {p : Part} (h : Unchanged s t p) (h' : Unchanged t u p) :
    Unchanged s u p := by
  cases p with
  | regs | memory | framebuffer | keys => exact fun k => (h' k).trans (h k)
  | stack => exact ⟨h'.1.trans h.1, h'.2.trans h.2⟩
  | index | delay | sound | redraw | run | draws => exact Eq.trans h' h

theorem OnlyChanges.refl (ps : List Part) (s : State) : OnlyChanges ps s s := fun p _ => Unchanged.refl s p

theorem OnlyChanges.mono {ps qs : List Part} {s t : State} (h : OnlyChanges ps s t) (hsub : ps ⊆ qs) :
    OnlyChanges qs s t := fun p hp => h p fun hmem => hp (hsub hmem)

/-- Two changes after each other change the parts of both. -/
theorem OnlyChanges.trans {ps qs : List Part} {s t u : State} (h : OnlyChanges ps s t)
    (h' : OnlyChanges qs t u) : OnlyChanges (ps ++ qs) s u := fun p hp =>
  (h p fun hmem => hp (List.mem_append_left _ hmem)).trans
    (h' p fun hmem => hp (List.mem_append_right _ hmem))

/-! ### Frames of one write -/

theorem onlyChanges_setRegs (s : State) (v : Vector Byte 16) : OnlyChanges [.regs] s (s.setRegs v) := by
  intro p hp
  cases p with
  | regs => exact absurd (List.mem_singleton_self _) hp
  | _ => simp [Unchanged]

theorem onlyChanges_setFlag (s : State) (c : Bool) : OnlyChanges [.regs] s (s.setFlag c) :=
  onlyChanges_setV s flagReg (flagByte c)

theorem onlyChanges_writeWithFlag (s : State) (x : Reg) (b : Byte) (c : Bool) :
    OnlyChanges [.regs] s (s.writeWithFlag x b c) :=
  (((onlyChanges_setV s x b).trans (onlyChanges_setFlag _ c)).mono (by simp)).advance

theorem onlyChanges_setStack (s : State) (stk : Vector Word 16) (sp : Fin 17) :
    OnlyChanges [.stack] s (s.setStack stk sp) := by
  intro p hp
  cases p with
  | stack => exact absurd (List.mem_singleton_self _) hp
  | _ => simp [Unchanged]

theorem onlyChanges_setMem (s : State) (m : Memory) : OnlyChanges [.memory] s (s.setMem m) := by
  intro p hp
  cases p with
  | memory => exact absurd (List.mem_singleton_self _) hp
  | _ => simp [Unchanged]

theorem onlyChanges_setFb (s : State) (f : Framebuffer) : OnlyChanges [.framebuffer] s (s.setFb f) := by
  intro p hp
  cases p with
  | framebuffer => exact absurd (List.mem_singleton_self _) hp
  | _ => simp [Unchanged]

theorem onlyChanges_setRedraw (s : State) (b : Bool) : OnlyChanges [.redraw] s (s.setRedraw b) := by
  intro p hp
  cases p with
  | redraw => exact absurd (List.mem_singleton_self _) hp
  | _ => simp [Unchanged]

theorem onlyChanges_setKeys (s : State) (k : Vector Bool 16) : OnlyChanges [.keys] s (s.setKeys k) := by
  intro p hp
  cases p with
  | keys => exact absurd (List.mem_singleton_self _) hp
  | _ => simp [Unchanged]

theorem onlyChanges_setRun (s : State) (r : RunState) : OnlyChanges [.run] s (s.setRun r) := by
  intro p hp
  cases p with
  | run => exact absurd (List.mem_singleton_self _) hp
  | _ => simp [Unchanged]

theorem onlyChanges_setDraws (s : State) (n : Nat) : OnlyChanges [.draws] s (s.setDraws n) := by
  intro p hp
  cases p with
  | draws => exact absurd (List.mem_singleton_self _) hp
  | _ => simp [Unchanged]

/-- A write of PC at the end keeps the frame, as the default advance does. -/
theorem OnlyChanges.setPc {ps : List Part} {s t : State} (h : OnlyChanges ps s t) (w : Word) :
    OnlyChanges ps s (t.setPc w) := (h.trans (onlyChanges_setPc t w)).mono (by simp)

/-! ### Frames of the instructions with more than one write -/

theorem completed_rnd_frame (s : State) (x : Reg) (kk : Byte) :
    OnlyChanges [.regs, .draws] s (completed s (.rnd x kk)) :=
  ((onlyChanges_setV s x _).trans (onlyChanges_setDraws _ _)).advance

theorem completed_addI_frame (s : State) (x : Reg) :
    OnlyChanges [.regs, .index] s (completed s (.addI x)) :=
  (((onlyChanges_setI s _).trans (onlyChanges_setFlag _ _)).mono (by decide)).advance

theorem completed_drw_frame (s : State) (x y : Reg) (n : Nat) :
    OnlyChanges [.regs, .framebuffer, .redraw] s (completed s (.drw x y n)) :=
  ((((onlyChanges_setFb s _).trans (onlyChanges_setFlag _ _)).trans (onlyChanges_setRedraw _ _)).mono
    (by decide)).advance

theorem completed_stRegs_frame (s : State) (x : Reg) :
    OnlyChanges [.memory, .index] s (completed s (.stRegs x)) :=
  ((onlyChanges_setMem s _).trans (onlyChanges_setI _ _)).advance

theorem completed_ldRegs_frame (s : State) (x : Reg) :
    OnlyChanges [.regs, .index] s (completed s (.ldRegs x)) :=
  ((onlyChanges_setRegs s _).trans (onlyChanges_setI _ _)).advance

/-! ### Who writes what -/

/-- A frame whose parts are all in the table of 10_state.md R35 leaves a part outside it unchanged. -/
theorem OnlyChanges.unwritten {ps : List Part} {s t : State} {i : Instr} {p : Part}
    (h : OnlyChanges ps s t) (hp : writers p i = false) (hw : ∀ q ∈ ps, writers q i = true) :
    Unchanged s t p :=
  h p fun hmem => Bool.false_ne_true (hp.symm.trans (hw p hmem))

/-- A completed instruction leaves every part that it is not listed for; instructions of one frame stand
together. -/
theorem completed_unwritten (s : State) {i : Instr} {p : Part} (hp : writers p i = false) :
    Unchanged s (completed s i) p := by
  cases i with
  | jp | jpV0 | seImm | sneImm | seReg | sneReg | skp | sknp =>
    exact (onlyChanges_setPc s _).unwritten hp (by simp)
  | ldImm | addImm | ldReg | orReg | andReg | xorReg | ldVxDt =>
    exact (onlyChanges_setV s _ _).advance.unwritten hp (by simp [writers])
  | addReg | sub | shr | subn | shl =>
    exact (onlyChanges_writeWithFlag s _ _ _).unwritten hp (by simp [writers])
  | ldI | ldF => exact (onlyChanges_setI s _).advance.unwritten hp (by simp [writers])
  | call | ret => exact ((onlyChanges_setStack s _ _).setPc _).unwritten hp (by simp [writers])
  | cls => exact (onlyChanges_setFb_setRedraw s _ _).advance.unwritten hp (by simp [writers])
  | drw => exact (completed_drw_frame s _ _ _).unwritten hp (by simp [writers])
  | rnd => exact (completed_rnd_frame s _ _).unwritten hp (by simp [writers])
  | ldVxK => exact (onlyChanges_setRun s _).advance.unwritten hp (by simp [writers])
  | ldDtVx => exact (onlyChanges_setDt s _).advance.unwritten hp (by simp [writers])
  | ldStVx => exact (onlyChanges_setSt s _).advance.unwritten hp (by simp [writers])
  | addI => exact (completed_addI_frame s _).unwritten hp (by simp [writers])
  | ldB => exact (onlyChanges_setMem s _).advance.unwritten hp (by simp [writers])
  | stRegs => exact (completed_stRegs_frame s _).unwritten hp (by simp [writers])
  | ldRegs => exact (completed_ldRegs_frame s _).unwritten hp (by simp [writers])

/-- Settles O43: an instruction that faults writes RUN alone, and one that completes keeps its frame. -/
theorem onlyTheListedInstructionsWrite : Obligations.OnlyTheListedInstructionsWrite := by
  intro i s t p h hp
  obtain ⟨f, -, rfl⟩ | ⟨-, rfl⟩ := exec_next_cases h
  · by_cases hrun : p = .run
    · exact .inr ⟨hrun, f, rfl⟩
    · exact .inl (onlyChanges_setRun s _ p (by simpa using hrun))
  · exact .inl (completed_unwritten s hp)

/-! ### VF -/

@[simp] theorem State.bytesAtIndex_length (s : State) (n : Nat) : (s.bytesAtIndex n).length = n := by
  simp [State.bytesAtIndex]

@[simp] theorem State.bytesAtIndex_getElem (s : State) (n k : Nat) (h : k < (s.bytesAtIndex n).length) :
    (s.bytesAtIndex n)[k] = s.byteAt (s.i.toNat + k) := by
  simp [State.bytesAtIndex]

/-- The registers after LD_REGS: those up to x from memory (48_index_memory.md R214). -/
theorem getV_completed_ldRegs (s : State) (x q : Reg) :
    (completed s (.ldRegs x)).getV q = if q ≤ x then s.byteAt (s.i.toNat + q.val) else s.getV q := by
  change (writeRegsFrom s.v 0 (s.bytesAtIndex (x.val + 1))).get q = _
  rw [writeRegsFrom_get]
  by_cases hq : q ≤ x
  · rw [dif_pos (by simpa using Nat.lt_succ_of_le hq), if_pos hq, State.bytesAtIndex_getElem, Nat.sub_zero]
  · rw [dif_neg (by simpa using hq), if_neg hq, State.getV]

theorem getV_setV_of_ne (s : State) {x q : Reg} (b : Byte) (h : x ≠ q) : (s.setV x b).getV q = s.getV q := by
  rw [State.getV_setV, if_neg (Ne.symm h)]

/-- Settles O45: an instruction not listed for the registers leaves all of them; of the listed ones the
seven are shut out, and the others write `V[x]`, or the registers up to x, with x not 15. -/
theorem onlyTheSevenWriteVf : Obligations.OnlyTheSevenWriteVf := by
  intro i s t h hflag hname
  obtain ⟨f, -, rfl⟩ | ⟨-, rfl⟩ := exec_next_cases h
  · rfl
  · cases i with
    | addReg | sub | shr | subn | shl | drw | addI => cases hflag
    | ldImm | addImm | rnd | ldReg | orReg | andReg | xorReg | ldVxDt =>
      exact getV_setV_of_ne s _ (of_decide_eq_false hname)
    | ldRegs x =>
      have hx : ¬15 ≤ x := not_le.2 (lt_of_le_of_ne (Fin.le_last x) (of_decide_eq_false hname))
      rw [getV_completed_ldRegs, if_neg hx]
    | _ => exact completed_unwritten s (p := .regs) rfl 15

/-! ### What is not read -/

theorem faultOf_setKeys (s : State) (keys : Vector Bool 16) (i : Instr) :
    faultOf (s.setKeys keys) i = faultOf s i := by
  cases i <;> rfl

/-- Only the two key tests look at the keys (10_state.md R32); what the others leave is written without
them. -/
theorem completed_setKeys (s : State) (keys : Vector Bool 16) {i : Instr} (hskp : ∀ x, i ≠ .skp x)
    (hsknp : ∀ x, i ≠ .sknp x) : completed (s.setKeys keys) i = (completed s i).setKeys keys := by
  cases i with
  | skp x => exact absurd rfl (hskp x)
  | sknp x => exact absurd rfl (hsknp x)
  | _ => rfl

/-- Settles O46: neither the fault nor the completed state of another instruction depends on the keys. -/
theorem onlyKeyTestsReadKeys : Obligations.OnlyKeyTestsReadKeys := by
  intro i keys s hskp hsknp
  rw [exec_eq, exec_eq, mapNext, outcome, outcome, faultOf_setKeys, completed_setKeys s keys hskp hsknp]
  cases faultOf s i <;> rfl

/-- A state with ST and REDRAW blanked out. -/
def State.hushed (s : State) : State := (s.setSt 0).setRedraw false

theorem faultOf_setSt_setRedraw (s : State) (b : Byte) (r : Bool) (i : Instr) :
    faultOf ((s.setSt b).setRedraw r) i = faultOf s i := by
  cases i <;> rfl

/-- What an instruction leaves is written without ST and REDRAW (10_state.md R28, R31). -/
theorem outcome_setSt_setRedraw (s : State) (b : Byte) (r : Bool) (i : Instr) :
    (outcome ((s.setSt b).setRedraw r) i).hushed = (outcome s i).hushed := by
  have hcompleted : (completed ((s.setSt b).setRedraw r) i).hushed = (completed s i).hushed := by
    cases i <;> rfl
  rw [outcome, outcome, faultOf_setSt_setRedraw]
  cases faultOf s i with
  | none => exact hcompleted
  | some f => rfl

/-- Settles O47: both states take the same branch of the step, since RUN, PC and the word at PC are the same,
and the branch reads neither ST nor REDRAW. -/
theorem nothingReadsSoundOrRedraw : Obligations.NothingReadsSoundOrRedraw := by
  intro s b r
  by_cases hr : s.run = .running
  · by_cases hpc : 0xFFE < s.pc.toNat
    · exact ⟨_, _, step_of_fetchFault hr hpc, step_of_fetchFault (s := (s.setSt b).setRedraw r) hr hpc, rfl⟩
    · have hle : s.pc.toNat ≤ 0xFFE := by omega
      cases hd : decodeWord s.wordAtPc with
      | none =>
        exact ⟨_, _, step_of_illegal hr hle hd,
          step_of_illegal (s := (s.setSt b).setRedraw r) hr hle hd, rfl⟩
      | some i =>
        exact ⟨_, _, (step_of_decoded hr hle hd).trans (exec_eq i s),
          (step_of_decoded (s := (s.setSt b).setRedraw r) hr hle hd).trans (exec_eq i _),
          outcome_setSt_setRedraw s b r i⟩
  · exact ⟨_, _, step_of_stopped hr, step_of_stopped (s := (s.setSt b).setRedraw r) hr, rfl⟩

end Sys2Proof.Machine
end

section
/-! The host operations (60_exceptions.md R241): everything one that is not refused makes of a session, what
a sequence of them keeps, and the statements about them. -/

namespace Sys2Proof.Machine

/-! ### Everything a host operation can make of a session -/

/-- What a host operation that is not refused makes of a session. -/
inductive HostEffect (c : Session) : HostOp → Session → Prop
  | reset : HostEffect c .reset ⟨hostReset c.core, true⟩
  | load (bytes : List Byte) (hopen : c.loadable = true) (hlen : bytes.length ≤ 3584) :
    HostEffect c (.load bytes) ⟨c.core.setMem (c.core.mem.storeRun .fault 0x200 bytes), false⟩
  | step (t : State) (h : Machine.step c.core = .next t) : HostEffect c .step ⟨t, false⟩
  | setKey (k : Reg) (pressed : Bool) :
    HostEffect c (.setKey k.val pressed)
      ⟨c.core.setKeys (c.core.keys.set k.val pressed k.isLt), c.loadable⟩
  | resolveKey (value : Nat) (r : Reg) (hr : c.core.run = .awaitingKey r) :
    HostEffect c (.resolveKey value)
      ⟨(c.core.setV r (BitVec.ofNat 8 value)).setRun .running, c.loadable⟩
  | tickTimers (n : Nat) : HostEffect c (.tickTimers n) ⟨Machine.tickTimers n c.core, c.loadable⟩
  | tickDelay (n : Nat) : HostEffect c (.tickDelay n) ⟨Machine.tickDelay n c.core, c.loadable⟩
  | tickSound (n : Nat) : HostEffect c (.tickSound n) ⟨Machine.tickSound n c.core, c.loadable⟩
  | ackRedraw : HostEffect c .ackRedraw ⟨Machine.ackRedraw c.core, c.loadable⟩
  | isAwaitingKey : HostEffect c .isAwaitingKey c
  | readFramebuffer : HostEffect c .readFramebuffer c
  | faultStatus : HostEffect c .faultStatus c
  | soundOn : HostEffect c .soundOn c

/-- An operation that answers a state answers the session with that state. -/
theorem Session.answer_eq_next {r : Result} {b : Bool} {g : State → HostReply} {c' : Session}
    {reply : HostReply} (h : Session.answer r b g = .next (c', reply)) :
    ∃ t, r = .next t ∧ c' = ⟨t, b⟩ := by
  cases r with
  | next t =>
    cases h
    exact ⟨t, rfl, rfl⟩
  | fault f => cases h
  | refused e => cases h

theorem hostEffect_of_load {bytes : List Byte} {c c' : Session} {reply : HostReply}
    (h : Session.apply (.load bytes) c = .next (c', reply)) : HostEffect c (.load bytes) c' := by
  obtain ⟨s, b⟩ := c
  cases b with
  | false =>
    rw [Session.apply_load_closed] at h
    cases h
  | true =>
    rw [Session.apply_load] at h
    split at h
    · cases h
    · split at h
      · cases h
      · cases h
        exact .load bytes rfl (by omega)

theorem hostEffect_of_setKey {index : Nat} {pressed : Bool} {c c' : Session} {reply : HostReply}
    (h : Session.apply (.setKey index pressed) c = .next (c', reply)) :
    HostEffect c (.setKey index pressed) c' := by
  obtain ⟨t, ht, rfl⟩ := Session.answer_eq_next h
  by_cases hlt : index < 16
  · cases (setKey_of_lt ⟨index, hlt⟩ pressed c.core).symm.trans ht
    exact .setKey ⟨index, hlt⟩ pressed
  · rw [setKey_of_ge index pressed c.core (by omega)] at ht
    cases ht

theorem hostEffect_of_resolveKey {value : Nat} {c c' : Session} {reply : HostReply}
    (h : Session.apply (.resolveKey value) c = .next (c', reply)) :
    HostEffect c (.resolveKey value) c' := by
  obtain ⟨t, ht, rfl⟩ := Session.answer_eq_next h
  by_cases hwait : ∃ r, c.core.run = .awaitingKey r
  · obtain ⟨r, hr⟩ := hwait
    rw [resolveKey_awaiting value c.core r hr] at ht
    split at ht
    · cases ht
      exact .resolveKey value r hr
    · cases ht
  · rw [resolveKey_not_awaiting value c.core (not_exists.1 hwait)] at ht
    cases ht

/-- One case per host operation; the nine that cannot be refused answer at once. -/
theorem hostEffect_of_apply {op : HostOp} {c c' : Session} {reply : HostReply}
    (h : Session.apply op c = .next (c', reply)) : HostEffect c op c' := by
  cases op with
  | load bytes => exact hostEffect_of_load h
  | setKey index pressed => exact hostEffect_of_setKey h
  | resolveKey value => exact hostEffect_of_resolveKey h
  | step =>
    obtain ⟨t, ht, rfl⟩ := Session.answer_eq_next h
    exact .step t ht
  | _ =>
    cases h
    constructor

/-! ### Sequences -/

/-- What each of the operations keeps, a sequence of them keeps (60_exceptions.md R242). -/
theorem Session.applyAll_keeps {P : Session → Prop} {ops : List HostOp}
    (hop : ∀ op ∈ ops, ∀ c c', P c → HostEffect c op c' → P c') {c c' : Session} (hc : P c)
    (h : Session.applyAll ops c = .next c') : P c' := by
  induction ops generalizing c with
  | nil =>
    cases h
    exact hc
  | cons op ops ih =>
    rw [Session.applyAll] at h
    split at h
    · next c₁ reply happly =>
      exact ih (fun o ho => hop o (List.mem_cons_of_mem _ ho))
        (hop op List.mem_cons_self c c₁ hc (hostEffect_of_apply happly)) h
    · cases h
    · cases h

/-! ### Frames of the host operations -/

theorem tickTimers_frame (n : Nat) (s : State) : OnlyChanges [.delay, .sound] s (tickTimers n s) :=
  (onlyChanges_setDt s _).trans (onlyChanges_setSt _ _)

theorem resolveKey_frame (s : State) (r : Reg) (b : Byte) :
    OnlyChanges [.regs, .run] s ((s.setV r b).setRun .running) :=
  (onlyChanges_setV s r b).trans (onlyChanges_setRun _ _)

/-- A frame whose parts are all in the table of 10_state.md R35 leaves a part outside it unchanged. -/
theorem OnlyChanges.hostUnwritten {ps : List Part} {s t : State} {op : HostOp} {p : Part}
    (h : OnlyChanges ps s t) (hp : hostWriters p op = false) (hw : ∀ q ∈ ps, hostWriters q op = true) :
    Unchanged s t p :=
  h p fun hmem => Bool.false_ne_true (hp.symm.trans (hw p hmem))

/-- Settles O44: every operation but step and reset keeps PC, and its frame is its row of the table. -/
theorem onlyTheListedHostOpsWrite : Obligations.OnlyTheListedHostOpsWrite := by
  intro op c c' reply p h hstep hreset
  cases hostEffect_of_apply h with
  | reset => exact absurd rfl hreset
  | step => exact absurd rfl hstep
  | load => exact ⟨rfl, fun hp => (onlyChanges_setMem _ _).hostUnwritten hp (by simp [hostWriters])⟩
  | setKey => exact ⟨rfl, fun hp => (onlyChanges_setKeys _ _).hostUnwritten hp (by simp [hostWriters])⟩
  | resolveKey => exact ⟨rfl, fun hp => (resolveKey_frame _ _ _).hostUnwritten hp (by simp [hostWriters])⟩
  | tickTimers => exact ⟨rfl, fun hp => (tickTimers_frame _ _).hostUnwritten hp (by simp [hostWriters])⟩
  | tickDelay => exact ⟨rfl, fun hp => (onlyChanges_setDt _ _).hostUnwritten hp (by simp [hostWriters])⟩
  | tickSound => exact ⟨rfl, fun hp => (onlyChanges_setSt _ _).hostUnwritten hp (by simp [hostWriters])⟩
  | ackRedraw => exact ⟨rfl, fun hp => (onlyChanges_setRedraw _ _).hostUnwritten hp (by simp [hostWriters])⟩
  | isAwaitingKey | readFramebuffer | faultStatus | soundOn => exact ⟨rfl, fun _ => Unchanged.refl _ p⟩

/-! ### What changes RUN -/

/-- A step that changes RUN is one of a running core: it begins the wait of the Fx0A at PC, or faults. -/
theorem step_changes_run {s t : State} (h : step s = .next t) (hne : t.run ≠ s.run) :
    s.run = .running ∧
      ((∃ x, t.run = .awaitingKey x ∧ decodeWord s.wordAtPc = some (.ldVxK x)) ∨
        ∃ f, t.run = .faulted f) := by
  obtain ⟨-, he⟩ | ⟨hr, -, he⟩ | ⟨hr, -, -, he⟩ | ⟨hr, -, i, hi, he⟩ := step_cases h
  · cases he
    exact absurd rfl hne
  · cases he
    exact ⟨hr, .inr ⟨_, rfl⟩⟩
  · cases he
    exact ⟨hr, .inr ⟨_, rfl⟩⟩
  · refine ⟨hr, ?_⟩
    obtain ⟨f, -, rfl⟩ | ⟨-, rfl⟩ := exec_next_cases he.symm
    · exact .inr ⟨f, rfl⟩
    · obtain hrun | ⟨x, rfl, hrun⟩ := completed_run s i
      · exact absurd hrun hne
      · exact .inl ⟨x, hrun, hi⟩

/-- Settles O42: of the operations that are not refused only step, resolve_key and reset write RUN. -/
theorem runStateTransitions : Obligations.RunStateTransitions := by
  refine ⟨fun op c c' reply h hne => ?_, fun s hr => step_of_stopped hr⟩
  cases hostEffect_of_apply h with
  | step t ht => exact .inl ⟨rfl, step_changes_run ht hne⟩
  | resolveKey value r hr => exact .inr (.inl ⟨value, r, rfl, hr, rfl⟩)
  | reset => exact .inr (.inr ⟨rfl, rfl⟩)
  | _ => exact absurd rfl hne

/-! ### A stopped core -/

/-- Outside the boot window, and of the core only keys, timers and REDRAW other than in session c. -/
def StoppedSince (c d : Session) : Prop :=
  d.loadable = false ∧ d.core.pc = c.core.pc ∧ OnlyChanges [.keys, .delay, .sound, .redraw] c.core d.core

/-- Outside the boot window, with RUN not Running, an operation that is neither reset nor resolve_key leaves
both so and changes nothing but keys, timers and REDRAW. -/
theorem HostEffect.stoppedSince {op : HostOp} {c c' : Session} (h : HostEffect c op c')
    (hrun : c.core.run ≠ .running) (hclosed : c.loadable = false) (hreset : op ≠ .reset)
    (hresolve : ∀ v, op ≠ .resolveKey v) : StoppedSince c c' := by
  cases h with
  | reset => exact absurd rfl hreset
  | resolveKey value => exact absurd rfl (hresolve value)
  | load _ hopen => exact absurd (hopen.symm.trans hclosed) (by decide)
  | step t ht =>
    cases (step_of_stopped hrun).symm.trans ht
    exact ⟨rfl, rfl, OnlyChanges.refl _ _⟩
  | setKey => exact ⟨hclosed, rfl, (onlyChanges_setKeys _ _).mono (by decide)⟩
  | tickTimers => exact ⟨hclosed, rfl, (tickTimers_frame _ _).mono (by decide)⟩
  | tickDelay => exact ⟨hclosed, rfl, (onlyChanges_setDt _ _).mono (by decide)⟩
  | tickSound => exact ⟨hclosed, rfl, (onlyChanges_setSt _ _).mono (by decide)⟩
  | ackRedraw => exact ⟨hclosed, rfl, (onlyChanges_setRedraw _ _).mono (by decide)⟩
  | isAwaitingKey | readFramebuffer | faultStatus | soundOn => exact ⟨hclosed, rfl, OnlyChanges.refl _ _⟩

/-- Settles O60: by the sequence rule; what is kept is the closed boot window, PC, and the frame, which says
that RUN is as it was, so that the next operation finds the core stopped too. -/
theorem stoppedCoreWaitsForTheHost : Obligations.StoppedCoreWaitsForTheHost := by
  intro ops c c' hrun hclosed hops h
  have hkept : StoppedSince c c' := by
    refine Session.applyAll_keeps (P := StoppedSince c) ?_ ⟨hclosed, rfl, OnlyChanges.refl _ _⟩ h
    rintro op hop d d' ⟨hd, hpc, hframe⟩ heff
    have hdrun : d.core.run = c.core.run := hframe .run (by decide)
    obtain ⟨hreset, hresolve⟩ := hops op hop
    obtain ⟨hd', hpc', hframe'⟩ := heff.stoppedSince (hdrun ▸ hrun) hd hreset hresolve
    exact ⟨hd', hpc'.trans hpc, (hframe.trans hframe').mono (by decide)⟩
  exact hkept.2

/-! ### One operation at a time -/

/-- Settles O53: reset writes every field. -/
theorem resetRestoresEverything : Obligations.ResetRestoresEverything := fun _ => rfl

/-- Settles O54: the three lengths are the three branches of `load`; what a run of writes leaves gives the
bytes of the program and the bytes around it. -/
theorem loadCopiesTheProgram : Obligations.LoadCopiesTheProgram := by
  intro bytes s
  rw [load_eq, Session.apply_load]
  refine ⟨fun h0 => by simp [h0], fun hbig => ?_, fun hpos hle => ?_⟩
  · simp [show bytes.length ≠ 0 by omega, show 3584 < bytes.length by omega]
  · have h0 : bytes.length ≠ 0 := by omega
    have hbig : ¬3584 < bytes.length := by omega
    simp only [if_neg h0, if_neg hbig]
    refine ⟨_, rfl, rfl, rfl, fun k b hk => ?_, fun a ha => ?_, onlyChanges_setMem s _⟩
    · obtain ⟨hlt, rfl⟩ := List.getElem?_eq_some_iff.1 hk
      rw [State.byteAt_setMem, Memory.byteAt_storeRun, dif_pos (by omega)]
      simp
    · rw [State.byteAt_setMem, Memory.byteAt_storeRun, dif_neg (by omega)]
      rfl

/-- Settles O55: in its domain each of the two is one write, and one more of RUN. -/
theorem keyOperations : Obligations.KeyOperations := by
  intro c
  constructor
  · intro k pressed
    refine ⟨c.core.setKeys (c.core.keys.set k.val pressed k.isLt), ?_, rfl, fun q => ?_,
      onlyChanges_setKeys c.core _⟩
    · simp only [Session.apply, setKey_of_lt, Session.answer]
    · simp [State.keyPressed, Vector.get_eq_getElem, Vector.getElem_set, Fin.ext_iff, eq_comm]
  · intro r value hr hv
    refine ⟨(c.core.setV r (BitVec.ofNat 8 value)).setRun .running, ?_, rfl, rfl, fun q => ?_,
      resolveKey_frame c.core r _⟩
    · simp only [Session.apply, resolveKey_awaiting value c.core r hr, if_pos (Nat.lt_succ_of_le hv),
        Session.answer]
    · have hbyte : (BitVec.ofNat 8 value).toNat = value := Nat.mod_eq_of_lt (by omega)
      rw [State.getV_setRun, State.getV_setV, apply_ite BitVec.toNat, hbyte]

/-- A clamped count is the greater of zero and the difference of the integers. -/
theorem tickDown_toInt (t : Byte) (n : Nat) : ((tickDown t n).toNat : Int) = max 0 ((t.toNat : Int) - n) := by
  rw [tickDown_toNat]
  omega

/-- Settles O56: each tick writes its timers, clamped at zero. -/
theorem tickOperations : Obligations.TickOperations := fun n c =>
  ⟨⟨_, rfl, rfl, tickDown_toInt c.core.dt n, onlyChanges_setDt c.core _⟩,
    ⟨_, rfl, rfl, tickDown_toInt c.core.st n, onlyChanges_setSt c.core _⟩,
    ⟨_, rfl, rfl, tickDown_toInt c.core.dt n, tickDown_toInt c.core.st n, tickTimers_frame n c.core⟩⟩

/-- Settles O57: the grid is a map over the rows of a map over the columns. -/
theorem displayOperations : Obligations.DisplayOperations := by
  intro c
  refine ⟨⟨readFramebuffer c.core, rfl, ?_, fun row hrow => ?_⟩,
    ⟨_, rfl, rfl, rfl, onlyChanges_setRedraw c.core false⟩⟩
  · simp [readFramebuffer, Params.fbHeight]
  · exact ⟨_, readFramebuffer_get c.core row hrow, by simp, fun col hcol => by simp [hcol]⟩

/-- Settles O58: each observer answers a function of the core and passes the session on. -/
theorem observersReportAndChangeNothing : Obligations.ObserversReportAndChangeNothing := fun c =>
  ⟨⟨_, rfl, isAwaitingKey_iff c.core⟩, ⟨_, rfl, bne_iff_ne⟩, ⟨_, rfl, faultStatus_iff c.core⟩⟩

/-- Settles O59: a clause per domain of an operation; a load in the boot window is refused by its length. -/
theorem outOfDomainCallsAreRefused : Obligations.OutOfDomainCallsAreRefused := by
  intro c
  refine ⟨fun index pressed h => ?_, fun value h => ?_, fun value r hr h => ?_, fun bytes h => ?_,
    fun bytes h hlen => ?_⟩
  · simp only [Session.apply, setKey_of_ge index pressed c.core h, Session.answer]
  · simp only [Session.apply, resolveKey_not_awaiting value c.core h, Session.answer]
  · simp only [Session.apply, resolveKey_awaiting value c.core r hr, if_neg (Nat.not_lt.2 h),
      Session.answer]
  · obtain ⟨s, b⟩ := c
    cases h
    exact Session.apply_load_closed bytes s
  · obtain ⟨s, b⟩ := c
    cases h
    rw [Session.apply_load]
    obtain h0 | hbig := hlen
    · exact .inl (if_pos h0)
    · exact .inr ((if_neg (by omega)).trans (if_pos hbig))

end Sys2Proof.Machine
end

section
/-! The invariants (10_state.md R33, 40_sequencer_and_flow.md R131): the state of reset has them, and every
step and every host operation keeps them. -/

namespace Sys2Proof.Machine

/-! ### The bound of PC -/

theorem pc_add_le {w : Word} (hw : w.toNat ≤ 0xFFE) :
    (w + 2).toNat ≤ 0x10FE ∧ (w + 4).toNat ≤ 0x10FE := by
  constructor <;> bv_omega

theorem target_le (nnn : BitVec 12) : (target nnn).toNat ≤ 0x10FE := by
  rw [target_toNat]
  omega

/-- From a PC that was fetched from, every completed instruction goes to a PC in bounds: the farthest is
JP_V0 with 0xFFF and 0xFF. -/
theorem completed_pc_le {s : State} (hpc : s.pc.toNat ≤ 0xFFE)
    (hstk : ∀ j : Fin 16, (s.stk.get j).toNat ≤ 0xFFE) (i : Instr) :
    (completed s i).pc.toNat ≤ 0x10FE := by
  obtain ⟨htwo, hfour⟩ := pc_add_le hpc
  have hskip : ∀ {p : Prop} [Decidable p], (if p then s.pc + 4 else s.pc + 2).toNat ≤ 0x10FE := by
    intro p _
    split
    · exact hfour
    · exact htwo
  cases i with
  | jp nnn => exact target_le nnn
  | call nnn => exact target_le nnn
  | ret => exact (pc_add_le (hstk _)).1
  | jpV0 nnn =>
    have hsum : (completed s (.jpV0 nnn)).pc.toNat = _ := target_add_byte_toNat nnn (s.getV 0)
    have := (s.getV 0).isLt
    omega
  | seImm | sneImm | seReg | sneReg | skp | sknp => exact hskip
  | _ => exact htwo

/-! ### The bound of the return addresses -/

/-- Only a call writes an entry, and it writes its own PC. -/
theorem completed_stk (s : State) (i : Instr) :
    (completed s i).stk = s.stk ∨ (completed s i).stk = s.stk.setIfInBounds s.sp.val s.pc := by
  cases i with
  | call nnn => exact .inr rfl
  | _ => exact .inl rfl

theorem completed_stk_le {s : State} (hpc : s.pc.toNat ≤ 0xFFE)
    (hstk : ∀ j : Fin 16, (s.stk.get j).toNat ≤ 0xFFE) (i : Instr) (j : Fin 16) :
    ((completed s i).stk.get j).toNat ≤ 0xFFE := by
  obtain h | h := completed_stk s i
  · rw [h]
    exact hstk j
  · rw [h, Vector.get_eq_getElem, Vector.getElem_setIfInBounds]
    split
    · exact hpc
    · exact hstk j

/-! ### Memory -/

theorem storeFault_eq_none {s : State} {n : Nat} (h : s.storeFault n = none) :
    0x050 ≤ s.i.toNat ∧ s.i.toNat + n ≤ 0x1000 := by
  unfold State.storeFault at h
  split at h
  · cases h
  · split at h
    · cases h
    · omega

/-- Only the two stores write memory: their bytes from I on, unless the run of them faults. -/
theorem completed_mem (s : State) (i : Instr) :
    (completed s i).mem = s.mem ∨
      ∃ bs, faultOf s i = s.storeFault bs.length ∧
        (completed s i).mem = s.mem.storeRun .fault s.i.toNat bs := by
  cases i with
  | ldB x => exact .inr ⟨decimalDigits (s.getV x), rfl, rfl⟩
  | stRegs x => exact .inr ⟨s.regsUpTo x, by rw [State.regsUpTo_length]; rfl, rfl⟩
  | _ => exact .inl rfl

/-- A run of writes above the font and inside memory keeps the invariant. -/
theorem State.Inv.setMem_storeRun {s : State} (h : s.Inv) {a : Nat} {bs : List Byte} (hlo : 0x050 ≤ a)
    (hhi : a + bs.length ≤ 0x1000) : (s.setMem (s.mem.storeRun .fault a bs)).Inv where
  memCanonical := Memory.wf_storeRun h.memCanonical hhi
  fontIntact := fun b hb => by
    have hbelow : b < 0x050 := hb
    rw [State.byteAt_setMem, Memory.byteAt_storeRun, dif_neg (by omega)]
    exact h.fontIntact b hb
  pcBound := h.pcBound
  stackBound := h.stackBound

/-- The invariant reads memory, PC and the stack. -/
theorem State.Inv.of_eq {s t : State} (h : s.Inv) (hmem : t.mem = s.mem) (hpc : t.pc.toNat ≤ 0x10FE)
    (hstk : ∀ j : Fin 16, (t.stk.get j).toNat ≤ 0xFFE) : t.Inv where
  memCanonical := hmem ▸ h.memCanonical
  fontIntact := fun a ha => by
    rw [State.byteAt, hmem]
    exact h.fontIntact a ha
  pcBound := hpc
  stackBound := hstk

/-! ### Steps -/

theorem completed_inv {s : State} {i : Instr} (h : s.Inv) (hpc : s.pc.toNat ≤ 0xFFE)
    (hf : faultOf s i = none) : (completed s i).Inv := by
  have hpc' : (completed s i).pc.toNat ≤ 0x10FE := completed_pc_le hpc h.stackBound i
  have hstk' := completed_stk_le hpc h.stackBound i
  obtain hmem | ⟨bs, hfault, hmem⟩ := completed_mem s i
  · exact h.of_eq hmem hpc' hstk'
  · obtain ⟨hlo, hhi⟩ := storeFault_eq_none (hfault.symm.trans hf)
    exact (h.setMem_storeRun hlo hhi).of_eq hmem hpc' hstk'

theorem State.Inv.setRun {s : State} (h : s.Inv) (r : RunState) : (s.setRun r).Inv :=
  h.of_eq rfl h.pcBound h.stackBound

theorem step_inv {s t : State} (h : s.Inv) (hstep : step s = .next t) : t.Inv := by
  obtain ⟨-, he⟩ | ⟨-, -, he⟩ | ⟨-, -, -, he⟩ | ⟨-, hpc, i, -, he⟩ := step_cases hstep
  · cases he
    exact h
  · cases he
    exact h.setRun _
  · cases he
    exact h.setRun _
  · obtain ⟨f, -, rfl⟩ | ⟨hf, rfl⟩ := exec_next_cases he.symm
    · exact h.setRun _
    · exact completed_inv h hpc hf

/-- Settles O49: a step that stands still or faults writes none of the parts; an instruction runs from a PC at
most 0xFFE, which bounds the next PC and the pushed one, and a store that completes lies above the font. -/
theorem stepKeepsTheInvariant : Obligations.StepKeepsTheInvariant := fun _ _ h hstep => step_inv h hstep

/-! ### Reset and the host -/

theorem reset_inv : State.reset.Inv where
  memCanonical := Memory.wf_reset
  fontIntact := fun _ _ => rfl
  pcBound := by decide
  stackBound := fun j => by rw [State.stk_get_reset]; decide

/-- Settles O51: memory lists nothing, the entries are zero, and a running core has no record. -/
theorem resetHasTheInvariants : Obligations.ResetHasTheInvariants := ⟨reset_inv, nofun⟩

theorem HostEffect.inv {op : HostOp} {c c' : Session} (h : HostEffect c op c') (hinv : c.core.Inv) :
    c'.core.Inv := by
  cases h with
  | reset => exact reset_inv.of_eq rfl reset_inv.pcBound reset_inv.stackBound
  | load bytes _ hlen => exact hinv.setMem_storeRun (by decide) (by omega)
  | step t ht => exact step_inv hinv ht
  | _ => exact hinv.of_eq rfl hinv.pcBound hinv.stackBound

/-- Settles O50: a load lies above the font and inside memory; step is O49, reset the base case, and the
others write none of the parts. -/
theorem hostOpsKeepTheInvariant : Obligations.HostOpsKeepTheInvariant := fun _ _ _ _ hinv h =>
  (hostEffect_of_apply h).inv hinv

/-- Settles O52: the invariant holds from reset on, and under its bounds the sums do not reach 65536. -/
theorem reachablePcNeverWraps : Obligations.ReachablePcNeverWraps := by
  rintro c ⟨ops, hops⟩
  have hinv : c.core.Inv :=
    Session.applyAll_keeps (P := fun d => d.core.Inv) (fun _ _ _ _ hd heff => heff.inv hd) reset_inv hops
  refine ⟨hinv, ?_, fun j => ?_⟩
  · have := hinv.pcBound
    bv_omega
  · have := hinv.stackBound j
    bv_omega

end Sys2Proof.Machine
end

section
/-! Calls and returns (40_sequencer_and_flow.md R127, R128), the key tests and the wait (46_keypad.md R190 to
R192), and the random byte (42_immediate.md R154). -/

namespace Sys2Proof.Machine

/-! ### The call stack -/

/-- Settles O12: with room CALL is one write of the stack and one of PC; with sixteen entries, its fault. -/
theorem callPushesItsOwnAddress : Obligations.CallPushesItsOwnAddress := by
  intro nnn s
  refine ⟨wordsOf_call nnn, fun hlt => ?_, fun hfull => exec_of_some (if_pos hfull)⟩
  refine ⟨completed s (.call nnn), exec_of_none (if_neg (by omega)), target_toNat nnn, ?_, fun j => ?_,
    (onlyChanges_setStack s _ _).setPc _⟩
  · exact Nat.mod_eq_of_lt (by omega)
  · change (s.stk.setIfInBounds s.sp.val s.pc).get j = _
    simp only [Vector.get_eq_getElem, Vector.getElem_setIfInBounds, eq_comm]

/-- Settles O13: with an entry RET is one write of SP and one of PC; with none it is its fault. -/
theorem returnPopsAndAddsTwo : Obligations.ReturnPopsAndAddsTwo := by
  intro s
  refine ⟨wordsOf_ret, fun j hj => ?_, fun hempty => exec_of_some (if_pos hempty)⟩
  have htop : s.topEntry = s.stk.get j :=
    congrArg s.stk.get (Fin.ext (by simp only [hj, Nat.add_sub_cancel]))
  refine ⟨completed s .ret, exec_of_none (if_neg (by omega)), ?_, rfl, rfl,
    (onlyChanges_setStack s _ _).setPc _⟩
  rw [← htop]
  rfl

/-! ### Keys -/

/-- In the domain of a key test `keyDown` is the key's own entry. -/
theorem keyDown_eq {s : State} {x k : Reg} (h : (s.getV x).toNat = k.val) :
    s.keyDown x = s.keyPressed k := by
  rw [State.keyDown, h, Fin.ofNat_val_eq_self]

/-- Settles O30: with `V[x]` at most 15 a key test is one write of PC, above it its fault. -/
theorem keyTestsSkip : Obligations.KeyTestsSkip := by
  intro x s
  refine ⟨wordsOf_skp x, wordsOf_sknp x, fun k hk => ?_, fun hbig => ?_, fun b => ⟨_, rfl, ?_⟩⟩
  · have hnone : s.keyFault x = none := if_neg (by omega)
    rw [← keyDown_eq hk]
    exact ⟨⟨_, exec_of_none (i := .skp x) hnone, rfl, onlyChanges_setPc s _⟩,
      ⟨_, exec_of_none (i := .sknp x) hnone, rfl, onlyChanges_setPc s _⟩⟩
  · have hsome : s.keyFault x = some (.keyIndexError (s.getV x) s.pc) := if_pos hbig
    exact ⟨exec_of_some (i := .skp x) hsome, exec_of_some (i := .sknp x) hsome⟩
  · simp only [BitVec.val_toFin, BitVec.extractLsb'_toNat, Nat.shiftRight_zero]

/-- Settles O31: LD_VX_K writes RUN and PC, and looks at no key. -/
theorem waitForKeyBegins : Obligations.WaitForKeyBegins := fun x s =>
  ⟨wordsOf_ldVxK x, _, exec_of_none rfl, rfl, rfl, (onlyChanges_setRun s _).advance⟩

/-! ### The random byte -/

/-- Settles O20: the draw is masked into one register and counted; a bit that the mask clears is 0. -/
theorem randomIsAMaskedDraw : Obligations.RandomIsAMaskedDraw := by
  intro x kk s
  have hget : ∀ q, (completed s (.rnd x kk)).getV q =
      if q = x then Config.draw8 s.draws &&& kk else s.getV q := fun q => State.getV_setV s x q _
  refine ⟨wordsOf_rnd x kk, _, exec_of_none rfl, rfl, rfl, hget, fun k hk => ?_, completed_rnd_frame s x kk⟩
  rw [hget, if_pos rfl, BitVec.getLsbD_and, hk, Bool.and_false]

end Sys2Proof.Machine
end

section
/-! The register-register ALU (43_alu.md R160 to R171) and ADD_I (48_index_memory.md R210). -/

namespace Sys2Proof.Machine

/-! ### Move and bitwise -/

/-- An instruction that writes one register and advances: its next state, for any value. -/
theorem setV_effect {i : Instr} {s : State} {x : Reg} {b : Byte} (h : exec i s = .next (s.setV x b).advance) :
    ∃ t, exec i s = .next t ∧ t.pc = s.pc + 2 ∧ (∀ q, t.getV q = if q = x then b else s.getV q) ∧
      OnlyChanges [.regs] s t :=
  ⟨_, h, rfl, fun q => State.getV_setV s x q b, (onlyChanges_setV s x b).advance⟩

/-- Settles O21: each of the four is one register write. -/
theorem moveAndBitwise : Obligations.MoveAndBitwise := fun x y _ =>
  ⟨⟨wordsOf_ldReg x y, setV_effect rfl⟩, ⟨wordsOf_orReg x y, setV_effect rfl⟩,
    ⟨wordsOf_andReg x y, setV_effect rfl⟩, ⟨wordsOf_xorReg x y, setV_effect rfl⟩⟩

/-! ### The five that write the flag -/

/-- An instruction that writes a result and then the flag (43_alu.md R160): its next state as numbers. -/
theorem writeWithFlag_effect {i : Instr} {s : State} {x : Reg} {b : Byte} {c : Bool} {flag result : Nat}
    (h : exec i s = .next (s.writeWithFlag x b c)) (hflag : (flagByte c).toNat = flag)
    (hresult : b.toNat = result) :
    ∃ t, exec i s = .next t ∧ t.pc = s.pc + 2 ∧
      (∀ q, (t.getV q).toNat = if q = 15 then flag else if q = x then result else (s.getV q).toNat) ∧
      OnlyChanges [.regs] s t := by
  refine ⟨_, h, rfl, fun q => ?_, onlyChanges_writeWithFlag s x b c⟩
  rw [State.getV_writeWithFlag, apply_ite BitVec.toNat, apply_ite BitVec.toNat, hflag, hresult]

/-- VF of a condition on numbers. -/
theorem flagByte_decide_toNat (p : Prop) [Decidable p] : (flagByte (decide p)).toNat = if p then 1 else 0 := by
  rw [flagByte_toNat]
  simp only [decide_eq_true_eq]

/-- VF of a bit is the bit as a number. -/
theorem flagByte_getLsbD_toNat (a : Byte) (k : Nat) :
    (flagByte (a.getLsbD k)).toNat = a.toNat / 2 ^ k % 2 := by
  rw [flagByte_toNat, ← BitVec.testBit_toNat, Nat.testBit_eq_decide_div_mod_eq]
  simp only [decide_eq_true_eq]
  split <;> omega

/-- A byte difference modulo 256 (43_alu.md R166). -/
theorem byte_sub_toNat (a b : Byte) : (a - b).toNat = (a.toNat + 256 - b.toNat) % 256 := by
  have := b.isLt
  rw [BitVec.toNat_sub]
  omega

/-- Settles O22: the carry and the sum, the flag written after it. -/
theorem addSetsCarry : Obligations.AddSetsCarry := fun x y _ =>
  ⟨wordsOf_addReg x y, writeWithFlag_effect rfl (flagByte_decide_toNat _) (BitVec.toNat_add _ _)⟩

/-- Settles O23: no-borrow and the difference, the flag written after it. -/
theorem subtractSetsNotBorrow : Obligations.SubtractSetsNotBorrow := fun x y _ =>
  ⟨wordsOf_sub x y, writeWithFlag_effect rfl (flagByte_decide_toNat _) (byte_sub_toNat _ _)⟩

/-- Settles O25: SUB with the operands exchanged. -/
theorem reverseSubtractSetsNotBorrow : Obligations.ReverseSubtractSetsNotBorrow := fun x y _ =>
  ⟨wordsOf_subn x y, writeWithFlag_effect rfl (flagByte_decide_toNat _) (byte_sub_toNat _ _)⟩

/-- Settles O24: bit 0 and the half, the flag written after it. -/
theorem shiftRightSetsOldBitZero : Obligations.ShiftRightSetsOldBitZero := by
  intro x y s
  have hflag : (flagByte (shiftedOutLow (s.getV x))).toNat = (s.getV x).toNat % 2 := by
    rw [shiftedOutLow, flagByte_getLsbD_toNat, pow_zero, Nat.div_one]
  have hresult : (s.getV x >>> 1).toNat = (s.getV x).toNat / 2 := by
    rw [BitVec.toNat_ushiftRight, Nat.shiftRight_one]
  exact ⟨wordsOf_shr x y, rfl, rfl, writeWithFlag_effect rfl hflag hresult⟩

/-- Settles O26: bit 7 and the double modulo 256, the flag written after it. -/
theorem shiftLeftSetsOldBitSeven : Obligations.ShiftLeftSetsOldBitSeven := by
  intro x y s
  have hflag : (flagByte (shiftedOutHigh (s.getV x))).toNat = (s.getV x).toNat / 128 := by
    have := (s.getV x).isLt
    rw [shiftedOutHigh, flagByte_getLsbD_toNat]
    omega
  have hresult : (s.getV x <<< 1).toNat = (s.getV x).toNat * 2 % 256 := by
    rw [BitVec.toNat_shiftLeft, Nat.shiftLeft_eq, pow_one]
  exact ⟨wordsOf_shl x y, rfl, rfl, writeWithFlag_effect rfl hflag hresult⟩

/-! ### ADD_I -/

/-- Settles O33: I as a number, and VF last; `V[x]` is that of the start in both. -/
theorem addToIndexSetsFlag : Obligations.AddToIndexSetsFlag := by
  intro x s
  refine ⟨wordsOf_addI x, completed s (.addI x), exec_of_none rfl, rfl, BitVec.toNat_ofNat _ _, fun q => ?_,
    completed_addI_frame s x⟩
  have hget : (completed s (.addI x)).getV q =
      if q = 15 then flagByte (indexOverflow 0x00FF s.i (s.getV x)) else s.getV q :=
    State.getV_setFlag _ _ q
  rw [hget, apply_ite BitVec.toNat, indexOverflow, flagByte_decide_toNat]

end Sys2Proof.Machine
end

section
/-! Memory transfer (48_index_memory.md R212 to R214), and that the next fetch sees a store (20_memory.md
R73). -/

namespace Sys2Proof.Machine

/-! ### The faults of a run from I on -/

theorem storeFault_font {s : State} (n : Nat) (h : s.i.toNat ≤ 0x04F) :
    s.storeFault n = some (.addressError s.i.toNat .fontWrite s.pc) := if_pos h

/-- Of n + 1 bytes, n at most 16, the last one lies outside: the first is not in the font. -/
theorem storeFault_range {s : State} {n : Nat} (hn : n ≤ 16) (h : 0xFFF < s.i.toNat + n) :
    s.storeFault (n + 1) = some (.addressError (max s.i.toNat 0x1000) .write s.pc) :=
  (if_neg (by omega)).trans (if_pos (by omega))

theorem storeFault_none {s : State} {n : Nat} (hlo : 0x050 ≤ s.i.toNat) (hhi : s.i.toNat + n ≤ 0xFFF) :
    s.storeFault (n + 1) = none := (if_neg (by omega)).trans (if_neg (by omega))

theorem readFault_range {s : State} {n : Nat} (h : 0xFFF < s.i.toNat + n) :
    s.readFault (n + 1) = some (.addressError (max s.i.toNat 0x1000) .read s.pc) :=
  if_pos ⟨Nat.succ_ne_zero n, by omega⟩

theorem readFault_none {s : State} {n : Nat} (h : n = 0 ∨ s.i.toNat + n ≤ 0x1000) : s.readFault n = none :=
  if_neg (by omega)

/-! ### What a store leaves -/

theorem byteAt_storedAtIndex (s : State) (bs : List Byte) (k : Nat) (h : k < bs.length) :
    (s.storedAtIndex bs).byteAt (s.i.toNat + k) = bs[k] := by
  rw [State.storedAtIndex, Memory.byteAt_storeRun, dif_pos (by omega)]
  simp only [Nat.add_sub_cancel_left]

theorem byteAt_storedAtIndex_outside (s : State) (bs : List Byte) {a : Nat}
    (h : a < s.i.toNat ∨ s.i.toNat + bs.length ≤ a) : (s.storedAtIndex bs).byteAt a = s.byteAt a :=
  (Memory.byteAt_storeRun _ _ _ _).trans (dif_neg (by omega))

theorem indexPast_toNat (s : State) (x : Reg) :
    (s.indexPast (x.val + 1)).toNat = (s.i.toNat + x.val + 1) % 65536 := by
  rw [State.indexPast, BitVec.toNat_add, BitVec.toNat_ofNat]
  omega

/-- Settles O35: in range LD_B stores the three digits; each fault of the run of three is its own clause. -/
theorem storeDecimalDigits : Obligations.StoreDecimalDigits := by
  intro x s
  refine ⟨wordsOf_ldB x, fun hlo hhi => ?_, fun h => exec_of_some (storeFault_font 3 h),
    fun h => exec_of_some (storeFault_range (n := 2) (by decide) h)⟩
  have := (s.getV x).isLt
  have hdigit : ∀ k (h : k < (decimalDigits (s.getV x)).length),
      ((completed s (.ldB x)).byteAt (s.i.toNat + k)).toNat = (decimalDigits (s.getV x))[k].toNat :=
    fun k h => congrArg BitVec.toNat (byteAt_storedAtIndex s _ k h)
  refine ⟨completed s (.ldB x), exec_of_none (storeFault_none (n := 2) hlo hhi), rfl, ?_, ?_, ?_,
    fun a ha => ?_, (onlyChanges_setMem s _).advance⟩
  · exact (hdigit 0 (by simp)).trans (Nat.mod_eq_of_lt (by omega))
  · exact (hdigit 1 (by simp)).trans (Nat.mod_eq_of_lt (by omega))
  · exact (hdigit 2 (by simp)).trans (Nat.mod_eq_of_lt (by omega))
  · exact byteAt_storedAtIndex_outside s _ (by rw [decimalDigits_length]; omega)

/-- Byte k of the store of ST_REGS is `V[k]`. -/
theorem byteAt_completed_stRegs (s : State) {x k : Reg} (h : k ≤ x) :
    (completed s (.stRegs x)).byteAt (s.i.toNat + k.val) = s.getV k := by
  have hlt : k.val < (s.regsUpTo x).length := by
    rw [State.regsUpTo_length]
    exact Nat.lt_succ_of_le h
  exact (byteAt_storedAtIndex s _ k.val hlt).trans (State.regsUpTo_getElem s x k.val hlt)

/-- Settles O36: in range ST_REGS stores the registers and moves I past them; each fault of the run is its
own clause. -/
theorem storeRegisters : Obligations.StoreRegisters := by
  intro x s
  refine ⟨wordsOf_stRegs x, fun hlo hhi => ?_, fun h => exec_of_some (storeFault_font _ h),
    fun h => exec_of_some (storeFault_range (by omega) h)⟩
  exact ⟨completed s (.stRegs x), exec_of_none (storeFault_none hlo hhi), rfl, indexPast_toNat s x,
    fun k hk => byteAt_completed_stRegs s hk,
    fun a ha => byteAt_storedAtIndex_outside s _ (by rw [State.regsUpTo_length]; omega),
    completed_stRegs_frame s x⟩

/-- Settles O37: in range LD_REGS loads the registers and moves I past the bytes; its fault is the one of the
run of reads. -/
theorem loadRegisters : Obligations.LoadRegisters := by
  intro x s
  refine ⟨wordsOf_ldRegs x, fun hhi => ?_, fun h => exec_of_some (readFault_range h)⟩
  exact ⟨completed s (.ldRegs x), exec_of_none (readFault_none (by omega)), rfl, indexPast_toNat s x,
    getV_completed_ldRegs s x, completed_ldRegs_frame s x⟩

/-- Settles O38: after the store the word at PC is the two stored bytes, and PC can be fetched from, since its
second byte lies in the run. -/
theorem nextFetchSeesTheStore : Obligations.NextFetchSeesTheStore := by
  intro x k s i hr hlo hhi hk hpc hd
  have hkx : k.val < x.val := hk
  have hsucc : (k + 1).val = k.val + 1 := Fin.val_add_one_of_lt (lt_of_lt_of_le hk (Fin.le_last x))
  have hpc' : (completed s (.stRegs x)).pc.toNat = s.i.toNat + k.val := by
    change (s.pc + 2).toNat = _
    bv_omega
  have hlow : (completed s (.stRegs x)).byteAt (s.i.toNat + k.val + 1) = s.getV (k + 1) := by
    rw [Nat.add_assoc, ← hsucc]
    exact byteAt_completed_stRegs s (Fin.le_def.2 (by omega))
  have hword : (completed s (.stRegs x)).wordAtPc = wordOfBytes (s.getV k) (s.getV (k + 1)) := by
    rw [State.wordAtPc, hpc', byteAt_completed_stRegs s hk.le, hlow]
  exact ⟨_, exec_of_none (storeFault_none hlo hhi), step_of_decoded hr (by omega) (hword ▸ hd)⟩

end Sys2Proof.Machine
end

section
/-! DRW (45_display.md R181 to R183): the pixels of a sprite as a list, and a draw as the flip of each. -/

namespace Sys2Proof.Machine

/-! ### The pixels of a sprite -/

/-- The indices of the pixels that `Dxyn` flips, each once. -/
def State.spritePixels (s : State) (x y : Reg) (n : Nat) : List Nat :=
  spriteHits (s.getV x).toNat (s.getV y).toNat 0 (s.bytesAtIndex n)

theorem mem_spritePixels {s : State} {x y : Reg} {n row col : Nat} (hrow : row < 32) (hcol : col < 64) :
    row * 64 + col ∈ s.spritePixels x y n ↔ SpriteAt s x y n row col := by
  rw [State.spritePixels, mem_spriteHits]
  constructor
  · rintro ⟨r, c, hr, hc, hbit, hk⟩
    obtain ⟨hrow', hcol'⟩ := pixelIndex_inj hcol (Nat.mod_lt _ (by decide)) hk
    rw [State.bytesAtIndex_getElem] at hbit
    exact ⟨r, c, by simpa using hr, hc, hbit, by simpa using hrow', hcol'⟩
  · rintro ⟨r, c, hr, hc, hbit, rfl, rfl⟩
    refine ⟨r, c, by simpa using hr, hc, ?_, by rw [Nat.zero_add]; rfl⟩
    rw [State.bytesAtIndex_getElem]
    exact hbit

theorem spritePixels_lt {s : State} {x y : Reg} {n k : Nat} (h : k ∈ s.spritePixels x y n) : k < 2048 :=
  spriteHits_lt h

theorem spritePixels_nodup (s : State) (x y : Reg) {n : Nat} (hn : n < 16) : (s.spritePixels x y n).Nodup :=
  spriteHits_nodup _ _ _ _ (by rw [State.bytesAtIndex_length]; omega)

/-- Some pixel of the sprite, by its index or by its row and column. -/
theorem exists_mem_spritePixels {s : State} {x y : Reg} {n : Nat} {p : Nat → Prop} :
    (∃ k ∈ s.spritePixels x y n, p k) ↔
      ∃ row col, row < 32 ∧ col < 64 ∧ SpriteAt s x y n row col ∧ p (row * 64 + col) := by
  constructor
  · rintro ⟨k, hk, hp⟩
    have hlt : k < 2048 := spritePixels_lt hk
    have hsplit : k / 64 * 64 + k % 64 = k := by omega
    have hrow : k / 64 < 32 := by omega
    have hcol : k % 64 < 64 := by omega
    exact ⟨k / 64, k % 64, hrow, hcol, (mem_spritePixels hrow hcol).1 (hsplit.symm ▸ hk),
      hsplit.symm ▸ hp⟩
  · rintro ⟨row, col, hrow, hcol, hsprite, hp⟩
    exact ⟨_, (mem_spritePixels hrow hcol).2 hsprite, hp⟩

/-! ### A draw as the flip of each pixel -/

theorem drawn_eq_hits (s : State) (x y : Reg) (n : Nat) :
    s.drawn x y n = (s.spritePixels x y n).foldl Drawing.hit ⟨s.fb, false⟩ := drawRows_eq_hits _ _ _ _ _

theorem drawn_collision_iff (s : State) (x y : Reg) {n : Nat} (hn : n < 16) :
    (s.drawn x y n).collision = true ↔ ∃ k ∈ s.spritePixels x y n, s.fb.pixel k = true := by
  rw [drawn_eq_hits,
    hits_collision _ _ (spritePixels_nodup s x y hn) fun _ hk => spritePixels_lt hk, Bool.false_or,
    List.any_eq_true]

/-! ### What DRW leaves -/

theorem pixel_completed_drw (s : State) (x y : Reg) {n : Nat} (hn : n < 16) (k : Nat) :
    (completed s (.drw x y n)).fb.pixel k = (s.fb.pixel k ^^ decide (k ∈ s.spritePixels x y n)) := by
  change (s.drawn x y n).fb.pixel k = _
  rw [drawn_eq_hits]
  exact hits_pixel _ _ (spritePixels_nodup s x y hn) (fun _ hk => spritePixels_lt hk) k

theorem exec_drw {s : State} (x y : Reg) {n : Nat} (h : n = 0 ∨ s.i.toNat + n ≤ 0x1000) :
    exec (.drw x y n) s = .next (completed s (.drw x y n)) := exec_of_none (readFault_none h)

theorem getV_completed_drw (s : State) (x y : Reg) (n : Nat) (q : Reg) :
    (completed s (.drw x y n)).getV q =
      if q = 15 then flagByte (s.drawn x y n).collision else s.getV q := State.getV_setFlag _ _ q

theorem vf_completed_drw (s : State) (x y : Reg) (n : Nat) :
    (completed s (.drw x y n)).getV 15 = flagByte (s.drawn x y n).collision := getV_completed_drw s x y n 15

theorem vf_completed_drw_cases (s : State) (x y : Reg) (n : Nat) :
    (completed s (.drw x y n)).getV 15 = 0 ∨ (completed s (.drw x y n)).getV 15 = 1 := by
  rw [vf_completed_drw]
  exact flagByte_cases _

/-- VF after a draw: 1 exactly when some pixel of the sprite was 1 (45_display.md R181). -/
theorem vf_completed_drw_eq_one_iff (s : State) (x y : Reg) {n : Nat} (hn : n < 16) :
    (completed s (.drw x y n)).getV 15 = 1 ↔
      ∃ k ∈ s.spritePixels x y n, s.fb.pixel k = true := by
  rw [vf_completed_drw, flagByte_eq_one, drawn_collision_iff s x y hn]

/-- Settles O28: a draw in range flips the pixels of the sprite, each once, and collides when one was 1; out
of range it is the fault of its reads. -/
theorem drawXorsTheSprite : Obligations.DrawXorsTheSprite := by
  intro x y n s hn
  refine ⟨wordsOf_drw x y n, fun h => ?_, fun hn0 hrange =>
    exec_of_some (i := .drw x y n) (if_pos ⟨hn0, hrange⟩)⟩
  refine ⟨_, exec_drw x y h, rfl, rfl, fun row col hrow hcol => ⟨fun hin => ?_, fun hout => ?_⟩,
    vf_completed_drw_cases s x y n, (vf_completed_drw_eq_one_iff s x y hn).trans exists_mem_spritePixels,
    fun q hq => ?_, completed_drw_frame s x y n⟩
  · have hmem := (mem_spritePixels hrow hcol).2 hin
    simp [pixel_completed_drw s x y hn, hmem]
  · have hmem := mt (mem_spritePixels hrow hcol).1 hout
    simp [pixel_completed_drw s x y hn, hmem]
  · rw [getV_completed_drw, if_neg hq]

/-! ### The same draw again -/

/-- After a draw that left its coordinates the same draw has the same pixels: I and memory are as before. -/
theorem spritePixels_completed_drw {s : State} {x y : Reg} {n : Nat}
    (hvf : x = 15 ∨ y = 15 → (completed s (.drw x y n)).getV 15 = s.getV 15) :
    (completed s (.drw x y n)).spritePixels x y n = s.spritePixels x y n := by
  have hcoord : ∀ q, q = x ∨ q = y → (completed s (.drw x y n)).getV q = s.getV q := by
    intro q hq
    by_cases h15 : q = 15
    · subst h15
      exact hvf (hq.imp Eq.symm Eq.symm)
    · rw [getV_completed_drw, if_neg h15]
  have hbytes : (completed s (.drw x y n)).bytesAtIndex n = s.bytesAtIndex n := rfl
  rw [State.spritePixels, hcoord x (.inl rfl), hcoord y (.inr rfl), hbytes, State.spritePixels]

/-- Settles O29: the second draw flips the same pixels back, and collides where the first found a 0. -/
theorem drawingTwiceRestores : Obligations.DrawingTwiceRestores := by
  intro x y n s hn h
  refine ⟨completed s (.drw x y n), exec_drw x y h, fun hvf => ?_⟩
  have hpixels := spritePixels_completed_drw hvf
  have hfirst := pixel_completed_drw s x y hn
  refine ⟨completed (completed s (.drw x y n)) (.drw x y n), exec_drw x y h,
    Framebuffer.ext_pixel fun k _ => ?_, vf_completed_drw_cases _ x y n, ?_⟩
  · rw [pixel_completed_drw _ x y hn, hpixels, hfirst, Bool.xor_assoc, Bool.xor_self, Bool.xor_false]
  · rw [vf_completed_drw_eq_one_iff _ x y hn, hpixels]
    refine Iff.trans ?_ (exists_mem_spritePixels (p := fun k => s.fb.pixel k = false))
    refine exists_congr fun k => and_congr_right fun hk => ?_
    simp [hfirst, hk]

end Sys2Proof.Machine
end
